-- ==== Sys2Proof/Word.lean ====
section
/-! DEFINITION. The words of the block (00_scope.md R12): bytes, line levels, operation words and tick counts. -/

namespace Sys2Proof

/-- A byte, `0x00..0xFF` (R12). -/
abbrev Byte := BitVec 8

/-- A line level (R12): `true` is the line high (1), `false` the line low (0). -/
abbrev Level := Bool

/-- A 32-bit operation word, bit 31 the most significant (R85). -/
abbrev OpWord := BitVec 32

/-- A timer register of `TIMER_WIDTH = 16` bits (R6, R30). -/
abbrev Ticks := BitVec 16

end Sys2Proof
end

