-- ==== Sys2Proof/Config.lean ====
section
/-! DEFINITION. The implementation parameters of 00_scope.md R6, and the model's free values. -/

namespace Sys2Proof

/-- `RX_FRAMING_POLICY` (R6, R126, D12): what a frame with a low stop bit does. -/
inductive FramingPolicy where
  | discard
  | deliver
  deriving DecidableEq, Repr, Inhabited

/-- `RX_OVERRUN_POLICY` (R6, R127, D13): what a completed byte does when the receive slot is full. -/
inductive OverrunPolicy where
  | dropNew
  | overwrite
  deriving DecidableEq, Repr, Inhabited

/-- `TIMER_WIDTH` (R6, D3). -/
def Config.timerWidth : Nat := 16

/-- R8: a parameter set is valid when `2 <= BITPERIOD <= 2^TIMER_WIDTH - 1`, with
`BITPERIOD = floor(F_CLK / BAUD)` (R7). -/
def Config.validParameters (fClk baud : Nat) : Bool :=
  decide (2 ≤ fClk / baud ∧ fClk / baud ≤ 2 ^ Config.timerWidth - 1)

/-- The parameters R6 marks OPEN, fixed for the lifetime of one built block.
A block cannot be built with an invalid set: every `Config` carries that its set is valid (R8), so there is
no run-time test and no machine whose set is invalid.
DESIGN CHOICE (log 1): they stand in `State` as plain data that no operation writes, so a
statement about every state is a statement about every valid parameter set. -/
structure Config where
  /-- `F_CLK`, the timer clock in Hz. -/
  fClk : Nat
  /-- `BAUD`, bits a second. -/
  baud : Nat
  framing : FramingPolicy
  overrun : OverrunPolicy
  /-- The set is valid (R8). -/
  valid : Config.validParameters fClk baud = true
  deriving DecidableEq, Repr

namespace Config

/-- `DATA_BITS` (R6). -/
def dataBits : Nat := 8
/-- `STOP_BITS` (R6). -/
def stopBits : Nat := 1
/-- `IDLE_LEVEL` (R6): high. -/
def idleLevel : Level := true
/-- `N_TIMER_CHANNELS` (R6, D2). -/
def nTimerChannels : Nat := 2
/-- `MAILBOX_DEPTH` (R6): bytes buffered in each direction. -/
def mailboxDepth : Nat := 1
/-- `N_INSTANCES` (R6). -/
def nInstances : Nat := 1
/-- `IRQ_LATENCY` in ticks (R6, D1). -/
def irqLatency : Nat := 0

/-- `JITTER_FRACTION` (R6, R186, D31): the source gives it no value and no rule reads it (log 16). -/
opaque jitterFraction : Rat

/-- A FREE VALUE (log 8): the byte a `MemRead` yields from a slot that holds `none` while its flag
says it is full, a state no run reaches and for which the spec states no byte.
The argument is the number of such draws already made. -/
opaque freeByte : Nat → Byte

/-- The reference values and the default policies of R6 (log 2). -/
def reference : Config :=
  { fClk := 1000000, baud := 9600, framing := .discard, overrun := .dropNew, valid := by decide }

end Config

end Sys2Proof
end

