-- ==== Sys2Proof/Syntax.lean ====
section
/-! DEFINITION. The eleven operations of 30_encoding.md R84, their operands, contexts and agents. -/

namespace Sys2Proof

/-- A channel of the Bit-Timer Controller (R30). -/
inductive Chan where
  | rx
  | tx
  deriving DecidableEq, Repr, Inhabited

/-- One constructor for each row of spec/opcode_table.json (R84). A tick count is a natural number:
whether it fits the operation word is a question of well-formedness (R86), whether it is an
interval the controller accepts is R104's. -/
inductive Instr where
  | init
  | getc
  | putc (b : Byte)
  | arm (c : Chan) (p : Nat)
  | disarm (c : Chan)
  | rearm1 (c : Chan) (d : Nat)
  | txstart
  | edge
  | rxtick (l : Level)
  | txtick
  | clk (l : Level)
  deriving DecidableEq, Repr, Inhabited

/-- The operations without their operands: the rows of R87. -/
inductive OpKind where
  | init | getc | putc | arm | disarm | rearm1 | txstart | edge | rxtick | txtick | clk
  deriving DecidableEq, Repr, Inhabited

/-- The row of R87 an operation belongs to. -/
def Instr.kind : Instr → OpKind
  | .init => .init
  | .getc => .getc
  | .putc _ => .putc
  | .arm _ _ => .arm
  | .disarm _ => .disarm
  | .rearm1 _ _ => .rearm1
  | .txstart => .txstart
  | .edge => .edge
  | .rxtick _ => .rxtick
  | .txtick => .txtick
  | .clk _ => .clk

/-- The column "context" of R84's table. -/
inductive Context where
  | application
  | interrupt
  | internal
  | timeBase
  deriving DecidableEq, Repr, Inhabited

/-- The context an operation is performed in (R84, R214). -/
def Instr.context : Instr → Context
  | .init | .getc | .putc _ => .application
  | .arm _ _ | .disarm _ | .rearm1 _ _ | .txstart => .internal
  | .edge | .rxtick _ | .txtick => .interrupt
  | .clk _ => .timeBase

/-- The agents of R10 that issue operations, and the time base of R84. -/
inductive Agent where
  | app
  | edgeIrq
  | timIrq
  | timeBase
  deriving DecidableEq, Repr, Inhabited

/-- Who issues an operation (R10); no agent issues a sub-operation. -/
def Instr.issuedBy : Instr → Option Agent
  | .init | .getc | .putc _ => some .app
  | .edge => some .edgeIrq
  | .rxtick _ | .txtick => some .timIrq
  | .clk _ => some .timeBase
  | .arm _ _ | .disarm _ | .rearm1 _ _ | .txstart => none

/-- Why an operation word is illegal (R88). -/
inductive Illegal where
  /-- `opc = 0x0`. -/
  | opcodeZero
  /-- `opc` in `0xC..0xF`. -/
  | opcodeReserved
  /-- `ch = 1` outside `ARM`, `DISARM`, `REARM1`. -/
  | channelBit
  /-- `lvl = 1` outside `RXTICK`, `CLK`. -/
  | levelBit
  /-- `zero != 0`. -/
  | zeroBits
  /-- `imm16 != 0` where no immediate is used, or `imm16[15:8] != 0` in `PUTC`. -/
  | immediateBits
  deriving DecidableEq, Repr, Inhabited

end Sys2Proof
end

