-- ==== Sys2Proof/WellFormed.lean ====
section
/-! DEFINITION. Which operations an operation word can spell (30_encoding.md R86). -/

namespace Sys2Proof

/-- An immediate tick count is spelled by the 16 bits of `imm16`: `0..65535` (R86). -/
def fitsImm16 (n : Nat) : Bool := decide (n < 2 ^ 16)

/-- An operation has an operation word exactly when its tick count, if it has one, fits `imm16`.
The interval `0` is a legal spelling, which the operation itself refuses (R86, R104). -/
def Instr.wellFormed : Instr → Bool
  | .init => true
  | .getc => true
  | .putc _ => true
  | .arm _ p => fitsImm16 p
  | .disarm _ => true
  | .rearm1 _ d => fitsImm16 d
  | .txstart => true
  | .edge => true
  | .rxtick _ => true
  | .txtick => true
  | .clk _ => true

end Sys2Proof
end

