-- ==== Sys2Proof/Decode.lean ====
section
/-! DEFINITION. The operation word of 30_encoding.md R85 to R89: fields, decoder, encoder, and R87's table of
match and mask values. -/

namespace Sys2Proof

/-- The fields of an operation word, R85's table from the top: `opc[31:28]`, `ch[27]`, `lvl[26]`,
`zero[25:16]`, `imm16[15:0]`. -/
structure Fields where
  opc : BitVec 4
  ch : Bool
  lvl : Bool
  zero : BitVec 10
  imm : BitVec 16
  deriving DecidableEq, Repr, Inhabited

/-- The fields of a word (R85). -/
def fields (w : OpWord) : Fields :=
  { opc := w.extractLsb' 28 4
    ch := w.getLsbD 27
    lvl := w.getLsbD 26
    zero := w.extractLsb' 16 10
    imm := w.extractLsb' 0 16 }

/-- The word with the given fields (R85). -/
def wordOf (f : Fields) : OpWord :=
  f.opc ++ BitVec.ofBool f.ch ++ BitVec.ofBool f.lvl ++ f.zero ++ f.imm

/-- Field `ch`: `0 = RX`, `1 = TX` (R85). -/
def chanOfBit (b : Bool) : Chan := if b then .tx else .rx

/-- The bit of field `ch` that names a channel (R85). -/
def chanBit : Chan → Bool
  | .rx => false
  | .tx => true

/-- Goes on with `k` when a must-be-zero condition holds, else the word is illegal (R88). -/
def requireZero (ok : Bool) (why : Illegal) (k : Except Illegal Instr) : Except Illegal Instr :=
  if ok then k else .error why

/-- Field `ch` must be 0 (R85, R88). -/
def Fields.noChannel (f : Fields) (k : Except Illegal Instr) : Except Illegal Instr :=
  requireZero (!f.ch) .channelBit k

/-- Field `lvl` must be 0 (R85, R88). -/
def Fields.noLevel (f : Fields) (k : Except Illegal Instr) : Except Illegal Instr :=
  requireZero (!f.lvl) .levelBit k

/-- Field `zero` must be 0 in every operation (R85, R88). -/
def Fields.noZeroBits (f : Fields) (k : Except Illegal Instr) : Except Illegal Instr :=
  requireZero (decide (f.zero = 0)) .zeroBits k

/-- Field `imm16` must be 0 where no immediate is used (R86, R88). -/
def Fields.noImmediate (f : Fields) (k : Except Illegal Instr) : Except Illegal Instr :=
  requireZero (decide (f.imm = 0)) .immediateBits k

/-- An operation that uses none of the fields below `opc` (R87). -/
def Fields.bare (f : Fields) (i : Instr) : Except Illegal Instr :=
  f.noChannel (f.noLevel (f.noZeroBits (f.noImmediate (.ok i))))

/-- R87's table read by opcode, with the must-be-zero fields of R88. -/
def decodeFields (f : Fields) : Except Illegal Instr :=
  match f.opc.toNat with
  | 0x0 => .error .opcodeZero
  | 0x1 => f.bare .init
  | 0x2 => f.bare .getc
  | 0x3 => f.noChannel (f.noLevel (f.noZeroBits
      (requireZero (decide (f.imm.extractLsb' 8 8 = 0)) .immediateBits
        (.ok (.putc (f.imm.extractLsb' 0 8))))))
  | 0x4 => f.noLevel (f.noZeroBits (.ok (.arm (chanOfBit f.ch) f.imm.toNat)))
  | 0x5 => f.noLevel (f.noZeroBits (f.noImmediate (.ok (.disarm (chanOfBit f.ch)))))
  | 0x6 => f.noLevel (f.noZeroBits (.ok (.rearm1 (chanOfBit f.ch) f.imm.toNat)))
  | 0x7 => f.bare .txstart
  | 0x8 => f.bare .edge
  | 0x9 => f.noChannel (f.noZeroBits (f.noImmediate (.ok (.rxtick f.lvl))))
  | 0xA => f.bare .txtick
  | 0xB => f.noChannel (f.noZeroBits (f.noImmediate (.ok (.clk f.lvl))))
  | _ => .error .opcodeReserved

/-- The decoder, total on 32-bit words: an operation, or why the word is illegal (R88). -/
def decode (w : OpWord) : Except Illegal Instr := decodeFields (fields w)

/-- Reads the instruction of an opcode-table row's word. Every operation is one word of 32 bits
(R89); a shorter row is filled with zeros above, and a longer one is no operation. -/
def decodeTableWord (nbits w : Nat) : Option Instr :=
  if nbits ≤ 32 then
    match decode (BitVec.ofNat 32 (w % 2 ^ nbits)) with
    | .ok i => some i
    | .error _ => none
  else none

/-- The operation code of a row (R87). -/
def OpKind.opcode : OpKind → BitVec 4
  | .init => 0x1#4
  | .getc => 0x2#4
  | .putc => 0x3#4
  | .arm => 0x4#4
  | .disarm => 0x5#4
  | .rearm1 => 0x6#4
  | .txstart => 0x7#4
  | .edge => 0x8#4
  | .rxtick => 0x9#4
  | .txtick => 0xA#4
  | .clk => 0xB#4

/-- The fields an operation is spelled with (R85, R86). -/
def fieldsOf : Instr → Fields
  | .putc b => { opc := OpKind.opcode .putc, ch := false, lvl := false, zero := 0, imm := b.setWidth 16 }
  | .arm c p => { opc := OpKind.opcode .arm, ch := chanBit c, lvl := false, zero := 0, imm := BitVec.ofNat 16 p }
  | .disarm c => { opc := OpKind.opcode .disarm, ch := chanBit c, lvl := false, zero := 0, imm := 0 }
  | .rearm1 c d => { opc := OpKind.opcode .rearm1, ch := chanBit c, lvl := false, zero := 0, imm := BitVec.ofNat 16 d }
  | .rxtick l => { opc := OpKind.opcode .rxtick, ch := false, lvl := l, zero := 0, imm := 0 }
  | .clk l => { opc := OpKind.opcode .clk, ch := false, lvl := l, zero := 0, imm := 0 }
  | .init => { opc := OpKind.opcode .init, ch := false, lvl := false, zero := 0, imm := 0 }
  | .getc => { opc := OpKind.opcode .getc, ch := false, lvl := false, zero := 0, imm := 0 }
  | .txstart => { opc := OpKind.opcode .txstart, ch := false, lvl := false, zero := 0, imm := 0 }
  | .edge => { opc := OpKind.opcode .edge, ch := false, lvl := false, zero := 0, imm := 0 }
  | .txtick => { opc := OpKind.opcode .txtick, ch := false, lvl := false, zero := 0, imm := 0 }

/-- The operation word of a well-formed operation (R85 to R87). -/
def encode (i : Instr) : OpWord := wordOf (fieldsOf i)

/-- One row of R87: the bits that are fixed, and which bits must match. -/
structure OpRow where
  kind : OpKind
  fixedBits : OpWord
  mask : OpWord
  deriving DecidableEq, Repr, Inhabited

/-- R87's table, column by column as printed. -/
def opRows : List OpRow :=
  [ ⟨.init, 0x10000000#32, 0xFFFFFFFF#32⟩,
    ⟨.getc, 0x20000000#32, 0xFFFFFFFF#32⟩,
    ⟨.putc, 0x30000000#32, 0xFFFFFF00#32⟩,
    ⟨.arm, 0x40000000#32, 0xF7FF0000#32⟩,
    ⟨.disarm, 0x50000000#32, 0xF7FFFFFF#32⟩,
    ⟨.rearm1, 0x60000000#32, 0xF7FF0000#32⟩,
    ⟨.txstart, 0x70000000#32, 0xFFFFFFFF#32⟩,
    ⟨.edge, 0x80000000#32, 0xFFFFFFFF#32⟩,
    ⟨.rxtick, 0x90000000#32, 0xFBFFFFFF#32⟩,
    ⟨.txtick, 0xA0000000#32, 0xFFFFFFFF#32⟩,
    ⟨.clk, 0xB0000000#32, 0xFBFFFFFF#32⟩ ]

/-- "A word `w` spells the operation of a row when `w AND mask = match`" (R87). -/
def OpRow.spells (r : OpRow) (w : OpWord) : Bool := decide (w &&& r.mask = r.fixedBits)

end Sys2Proof
end

