-- ==== Sys2Proof/Machine/State.lean ====
section
/-! DEFINITION. The state of the block (10_state.md R20 to R39), the interface beside it, the reasons a step can
stop, and the state at power-on. -/

namespace Sys2Proof.Machine

/-- `rx.phase` (R21), as the tagged variant the source advises (R39). -/
inductive RxPhase where
  | idle
  | startDetected
  | samplingBit (i : Fin 8)
  | stopExpected
  deriving DecidableEq, Repr, Inhabited

/-- `tx.phase` (R24), as the tagged variant the source advises (R39). -/
inductive TxPhase where
  | idle
  | sendingStart
  | sendingBit (i : Fin 8)
  | sendingStop
  deriving DecidableEq, Repr, Inhabited

/-- The receive FrameState (R21 to R23). -/
structure RxState where
  phase : RxPhase
  shiftRegister : Byte
  bitsReceived : BitVec 4
  deriving DecidableEq, Repr, Inhabited

/-- The transmit FrameState (R24 to R26). -/
structure TxState where
  phase : TxPhase
  pendingByte : Byte
  bitsSent : BitVec 4
  deriving DecidableEq, Repr, Inhabited

/-- The four cells of the Byte Mailbox (R27, R28, R61). `none` is the spec's own empty slot. -/
structure Mailbox where
  receivedByte : Option Byte
  receivedReady : Bool
  transmitByte : Option Byte
  transmitBusy : Bool
  deriving DecidableEq, Repr, Inhabited

/-- The four registers of one channel of the Bit-Timer Controller (R30). -/
structure Channel where
  armed : Bool
  oneShot : Bool
  count : Ticks
  period : Ticks
  deriving DecidableEq, Repr, Inhabited

/-- The two channels `RX` and `TX` (R30). -/
structure Timer where
  rx : Channel
  tx : Channel
  deriving DecidableEq, Repr, Inhabited

/-- The output latch (R31) and the edge detector's memory (R32). -/
structure Pins where
  tx : Level
  rxPrev : Level
  deriving DecidableEq, Repr, Inhabited

/-- The sticky diagnostic flags (R33). -/
structure ErrFlags where
  framing : Bool
  overrun : Bool
  deriving DecidableEq, Repr, Inhabited

/-- The control bits (R34). -/
structure Ctl where
  initialised : Bool
  gie : Bool
  deriving DecidableEq, Repr, Inhabited

/-- The four error conditions (60_exceptions.md R200). They stop nothing. -/
inductive Condition where
  | falseStart
  | framingError
  | receiveOverrun
  | transmitContention
  deriving DecidableEq, Repr, Inhabited

/-- What an operation shows to the outside (R11, R13): the result of `GETC`, where `none` is
`(false, -)`; the result of `PUTC`; a signalled error condition. -/
inductive Output where
  | getc (r : Option Byte)
  | putc (ok : Bool)
  | signal (c : Condition)
  deriving DecidableEq, Repr, Inhabited

/-- Where the next operation is issued (R105, R206): at the top level of a trace, or performed inside
another operation. DESIGN CHOICE (log 5). -/
inductive Nesting where
  | topLevel
  | inside
  deriving DecidableEq, Repr, Inhabited

/-- What the outside does next (log 4): an agent issues an operation (R10), spelled by its word (R85); or the
application, to which `GETC` has returned, stores the byte it was given: the `*out <- b` of
`uart_getc`, outside the block and outside the atomic step (R13, R91, R161; log 7). -/
inductive Delivered where
  | op (w : OpWord)
  | storeByte
  deriving DecidableEq, Repr

/-- The machine. The first eight groups after `cfg` are the 24 elements of R20; `cfg` holds the build's
parameters (log 1); the last five fields are the model's own interface (logs 4 to 8). -/
structure State where
  cfg : Config
  rx : RxState
  tx : TxState
  mb : Mailbox
  tm : Timer
  pin : Pins
  err : ErrFlags
  ctl : Ctl
  /-- Whether the next operation is at top level or performed inside another (R105; log 5). -/
  nesting : Nesting
  /-- What has been delivered and not yet performed, oldest first (R10, R71; log 4). -/
  input : List Delivered
  /-- Everything shown to the outside, newest first (R11, R13; log 6). No operation reads it. -/
  outputs : List Output
  /-- The caller's byte `*out` of `uart_getc` (R61, R161; log 7). No operation reads it. -/
  callerByte : Byte
  /-- How many free bytes have been drawn (log 8). -/
  draws : Nat
  deriving DecidableEq, Repr

/-- The block has no fault: "None of these are fatal; the driver has no unrecoverable error state"
(R200, R11; log 17). Nothing raises one. -/
inductive Fault where
  deriving DecidableEq, Repr

/-- Refusals leave the state unchanged and say nothing about the hardware (R11, R206). -/
inductive Refusal where
  /-- Raised only by a dispatch arm that has no meaning yet. Safe: the machine stops. -/
  | notModelled (mnemonic : String)
  /-- `NotInitialised`: `GETC`, `PUTC`, `RXTICK`, `TXTICK` before `INIT` (R166). Safe: the machine stops. -/
  | notInitialised
  /-- `ReInit`: a second `INIT` (R166). Safe: the machine stops. -/
  | reInit
  /-- `SpuriousTick`: `RXTICK`, `TXTICK` on a disarmed channel (R106). Safe: the machine stops. -/
  | spuriousTick
  /-- `BadInterval`: `ARM`, `REARM1` with an interval of 0 or wider than `TIMER_WIDTH` (R104).
  Safe: the machine stops. -/
  | badInterval
  /-- `InternalOnly`: `ARM`, `DISARM`, `REARM1`, `TXSTART` at the top level of a trace (R105, R206).
  Safe: the machine stops. -/
  | internalOnly
  /-- `IllegalOperation`: the step met a word that spells no operation (R88). Safe: the machine stops. -/
  | illegalOperation (why : Illegal)
  /-- `Unreachable`: `RXTICK`, `TXTICK` in phase `Idle` with the channel armed (R121, R141).
  Safe: the machine stops. -/
  | unreachable
  /-- The model's own: the step finds no delivered operation (log 4). The block makes no transition
  without one (R9, R10). Safe: the machine stops. -/
  | nothingDelivered
  deriving DecidableEq, Repr

/-- What an operation answers. -/
abbrev Result := Host.Outcome State Fault Refusal

/-- A channel with every register 0. -/
def Channel.zero : Channel := { armed := false, oneShot := false, count := 0, period := 0 }

/-- Power-on (R38, R240, D17): `ctl.initialised = ctl.gie = tm.armed[RX] = tm.armed[TX] = 0`; every other
element is unspecified there and holds a value the model names, DESIGN CHOICE (log 3); the
parameters are the reference values and default policies (log 2). -/
def State.reset : State :=
  { cfg := Config.reference
    rx := { phase := .idle, shiftRegister := 0, bitsReceived := 0 }
    tx := { phase := .idle, pendingByte := 0, bitsSent := 0 }
    mb := { receivedByte := none, receivedReady := false, transmitByte := none, transmitBusy := false }
    tm := { rx := Channel.zero, tx := Channel.zero }
    pin := { tx := false, rxPrev := false }
    err := { framing := false, overrun := false }
    ctl := { initialised := false, gie := false }
    nesting := .topLevel
    input := []
    outputs := []
    callerByte := 0
    draws := 0 }

end Sys2Proof.Machine
end

