-- ==== Sys2Proof/Machine/Operands.lean ====
section
/-! DEFINITION. The derived parameters (R7), the building of a block (R8), operand forms and the arithmetic of the sequencers: intervals (R104), the accumulator's shift
(R124), a data bit by index (R142, R143), the next phases (R128, R147), and the codes of R39 and R200. -/

namespace Sys2Proof.Config

/-- `BITPERIOD = floor(F_CLK / BAUD)` (R7). -/
def bitPeriod (c : Config) : Nat := c.fClk / c.baud

/-- `HALFBIT = floor(BITPERIOD / 2)` (R7). -/
def halfBit (c : Config) : Nat := c.bitPeriod / 2

/-- Building a block with a parameter set (R8): an invalid set is refused. -/
def build (fClk baud : Nat) (framing : FramingPolicy) (overrun : OverrunPolicy) : Option Config :=
  if h : validParameters fClk baud = true then some { fClk, baud, framing, overrun, valid := h } else none

end Sys2Proof.Config

namespace Sys2Proof.Machine

/-- R104: an interval or delay is accepted when it is at least 1 and fits `TIMER_WIDTH` bits. -/
def intervalOk (n : Nat) : Bool := decide (1 ≤ n ∧ n ≤ 2 ^ Config.timerWidth - 1)

/-- A tick count as a timer register holds it (R30). -/
def ticksOf (n : Nat) : Ticks := BitVec.ofNat 16 n

/-- `l :: sr[7:1]` (R124): a logical right shift with the sample entering at bit 7. -/
def shiftIn (l : Level) (sr : Byte) : Byte := BitVec.cons l (sr.extractLsb' 1 7)

/-- Data bit `i` of a byte, 1 = high (R82, R145). -/
def dataBit (b : Byte) (i : Fin 8) : Level := b.getLsbD i.val

/-- `SamplingBit(i)` is followed by `SamplingBit(i+1)` for `i < 7`, and by `StopExpected` (R124). -/
def afterSample (i : Fin 8) : RxPhase :=
  if h : i.val < 7 then .samplingBit ⟨i.val + 1, by omega⟩ else .stopExpected

/-- A count of data bits as `rx.bitsReceived` and `tx.bitsSent` hold it (R23, R26). -/
def bitCount (n : Nat) : BitVec 4 := BitVec.ofNat 4 n

/-- The number of data bits already shifted in, by phase (R23). -/
def RxPhase.bitsDone : RxPhase → BitVec 4
  | .idle => 0
  | .startDetected => 0
  | .samplingBit i => bitCount i.val
  | .stopExpected => 8

/-- The number of data bits whose cell has begun on the pin, by phase (R26). -/
def TxPhase.bitsDone : TxPhase → BitVec 4
  | .idle => 0
  | .sendingStart => 0
  | .sendingBit i => bitCount (i.val + 1)
  | .sendingStop => 8

/-- The numeric code of `rx.phase` (R39). -/
def RxPhase.code : RxPhase → BitVec 4
  | .idle => 0
  | .startDetected => 1
  | .samplingBit i => BitVec.ofNat 4 (2 + i.val)
  | .stopExpected => 10

/-- The numeric code of `tx.phase` (R39). -/
def TxPhase.code : TxPhase → BitVec 4
  | .idle => 0
  | .sendingStart => 1
  | .sendingBit i => BitVec.ofNat 4 (2 + i.val)
  | .sendingStop => 10

/-- The phase a code names; codes 11 to 15 are never held (R39, U21). -/
def RxPhase.ofCode (c : BitVec 4) : Option RxPhase :=
  if c = 0 then some .idle
  else if c = 1 then some .startDetected
  else if h : 2 ≤ c.toNat ∧ c.toNat ≤ 9 then some (.samplingBit ⟨c.toNat - 2, by omega⟩)
  else if c = 10 then some .stopExpected
  else none

/-- The phase a code names; codes 11 to 15 are never held (R39, U21). -/
def TxPhase.ofCode (c : BitVec 4) : Option TxPhase :=
  if c = 0 then some .idle
  else if c = 1 then some .sendingStart
  else if h : 2 ≤ c.toNat ∧ c.toNat ≤ 9 then some (.sendingBit ⟨c.toNat - 2, by omega⟩)
  else if c = 10 then some .sendingStop
  else none

/-- The numeric code of an error condition (R200). -/
def Condition.code : Condition → Nat
  | .falseStart => 1
  | .framingError => 2
  | .receiveOverrun => 3
  | .transmitContention => 4

end Sys2Proof.Machine
end

