-- ==== Sys2Proof/Machine/Flags.lean ====
section
/-! DEFINITION. The flags of 10_state.md R33 and the derived signals of R35. There are no arithmetic condition codes. -/

namespace Sys2Proof.Machine

/-- Writes `mb.receivedReady` (R27, R33). -/
def setReceivedReady (v : Bool) (s : State) : State := { s with mb := { s.mb with receivedReady := v } }

/-- Writes `mb.transmitBusy` (R28, R33). -/
def setTransmitBusy (v : Bool) (s : State) : State := { s with mb := { s.mb with transmitBusy := v } }

/-- Sets the sticky flag `err.framing` (R33, R126). -/
def setFraming (s : State) : State := { s with err := { s.err with framing := true } }

/-- Sets the sticky flag `err.overrun` (R33, R127). -/
def setOverrun (s : State) : State := { s with err := { s.err with overrun := true } }

/-- `edgeEnable = ctl.initialised AND ctl.gie AND (rx.phase = Idle)` (R35). -/
def edgeEnable (s : State) : Bool :=
  s.ctl.initialised && s.ctl.gie && decide (s.rx.phase = .idle)

/-- The registers of a channel. -/
def State.chan (s : State) : Chan → Channel
  | .rx => s.tm.rx
  | .tx => s.tm.tx

/-- `timerIrqEnable[c] = tm.armed[c]` (R35). -/
def timerIrqEnable (c : Chan) (s : State) : Bool := (s.chan c).armed

/-- `powerIdle`: both channels disarmed (R35, R219). -/
def powerIdle (s : State) : Bool := !s.tm.rx.armed && !s.tm.tx.armed

end Sys2Proof.Machine
end

