-- ==== Sys2Proof/Machine/Ops.lean ====
section
/-! DEFINITION. The primitives of 00_scope.md R13 and the shared operations: writes to the registers, the mailbox cells,
outputs and signals, sequencing with refusals, interrupt entry, the fetch of a delivered operation. -/

namespace Sys2Proof.Machine

/-- Goes on with `k` after an operation that completed; a refusal inside refuses the whole
operation, which then has no effect (R11, R121). -/
def andThen (r : Result) (k : State → Result) : Result :=
  match r with
  | .next s => k s
  | .fault f => .fault f
  | .refused e => .refused e

/-- Writes the registers of channel `c` (R30). -/
def setChan (c : Chan) (v : Channel) (s : State) : State :=
  match c with
  | .rx => { s with tm := { s.tm with rx := v } }
  | .tx => { s with tm := { s.tm with tx := v } }

/-- Writes the receive FrameState (R21 to R23). -/
def setRx (v : RxState) (s : State) : State := { s with rx := v }

/-- Writes the transmit FrameState (R24 to R26). -/
def setTx (v : TxState) (s : State) : State := { s with tx := v }

/-- `pin.tx <- l` (R31, R145). -/
def setPinTx (l : Level) (s : State) : State := { s with pin := { s.pin with tx := l } }

/-- `pin.rxPrev <- l` (R32, R180). -/
def setRxPrev (l : Level) (s : State) : State := { s with pin := { s.pin with rxPrev := l } }

/-- The two byte cells of the mailbox (R13, R61). -/
inductive Cell where
  | received
  | transmit
  deriving DecidableEq, Repr

/-- `MemRead(cell, 1)` (R13): `none` or a byte. -/
def memRead (c : Cell) (s : State) : Option Byte :=
  match c with
  | .received => s.mb.receivedByte
  | .transmit => s.mb.transmitByte

/-- `MemWrite(cell, 1, v)` (R13): a byte or `none`. -/
def memWrite (c : Cell) (v : Option Byte) (s : State) : State :=
  match c with
  | .received => { s with mb := { s.mb with receivedByte := v } }
  | .transmit => { s with mb := { s.mb with transmitByte := v } }

/-- The byte taken from a slot whose flag is set: what the slot holds, or, where it holds `none`
against invariants I1 and I2 of R37, a free byte (log 8). -/
def slotByte (v : Option Byte) (s : State) : Byte := v.getD (Config.freeByte s.draws)

/-- Counts the draw of a free byte, if `slotByte` made one (log 8). -/
def noteDraw (v : Option Byte) (s : State) : State :=
  match v with
  | some _ => s
  | none => { s with draws := s.draws + 1 }

/-- Shows an output to the outside (R11, R13; log 6). -/
def emit (o : Output) (s : State) : State := { s with outputs := o :: s.outputs }

/-- `signal Cond` (R13): records the condition; the operation goes on. -/
def signal (c : Condition) (s : State) : State := emit (.signal c) s

/-- `*out <- b` (R13, R161). -/
def setCallerByte (b : Byte) (s : State) : State := { s with callerByte := b }

/-- Taking an interrupt (60_exceptions.md R212, R213): the operation of the cause is entered and runs
to completion as one atomic step; the block saves nothing on entry and restores nothing on return,
so the handler acts on the interrupted state and its own writes are all that changes. -/
def takeInterrupt (handler : State → Result) (s : State) : Result := handler s

/-- The operations that exist only inside others are refused at the top level of a trace
(R105, R206). -/
def onlyInside (body : State → Result) (s : State) : Result :=
  match s.nesting with
  | .topLevel => .refused .internalOnly
  | .inside => body s

/-- The byte the latest `GETC` returned, `none` where it returned `(false, -)`: the application's private
copy (R161). -/
def lastGetc : List Output → Option Byte
  | [] => none
  | .getc r :: _ => r
  | .putc _ :: rest => lastGetc rest
  | .signal _ :: rest => lastGetc rest

/-- What follows `GETC` in `uart_getc` (R91, R161): on `(true, b)` the caller's byte is written with `b`; on
`(false, -)` it is not written (D16). -/
def storeReturned (s : State) : State :=
  match lastGetc s.outputs with
  | some b => setCallerByte b s
  | none => s

/-- Takes the oldest thing delivered (R10, R71; log 4). -/
def fetch (s : State) : Option (Delivered × State) :=
  match s.input with
  | [] => none
  | d :: rest => some (d, { s with input := rest })

/-- Delivers an operation word ahead of everything still waiting (log 4). -/
def deliverFirst (w : OpWord) (s : State) : State := { s with input := .op w :: s.input }

end Sys2Proof.Machine
end

