-- ==== Sys2Proof/Machine/BitTimer.lean ====
section
/-! DEFINITION. The Bit-Timer Controller (40_bit_timer.md): `ARM`, `DISARM`, `REARM1` and the firing step. -/

namespace Sys2Proof.Machine

/-- `ARM c, p` as a sub-operation (R101): starts a disarmed channel; idempotent on an armed one. -/
def arm (c : Chan) (p : Nat) (s : State) : Result :=
  if intervalOk p then
    if (s.chan c).armed then .next s
    else .next (setChan c { armed := true, oneShot := false, count := ticksOf p, period := ticksOf p } s)
  else .refused .badInterval

/-- `DISARM c` as a sub-operation (R102); `tm.period[c]` keeps its value. -/
def disarm (c : Chan) (s : State) : State :=
  setChan c { s.chan c with armed := false, oneShot := false, count := 0 } s

/-- `REARM1 c, d` as a sub-operation (R103): one firing in `d` ticks, overriding a count in progress. -/
def rearm1 (c : Chan) (d : Nat) (s : State) : Result :=
  if intervalOk d then
    .next (setChan c { s.chan c with armed := true, oneShot := true, count := ticksOf d } s)
  else .refused .badInterval

/-- `Fire(c)` (R106): a one-shot channel stops itself, a periodic one reloads its count. -/
def fire (c : Chan) (s : State) : State :=
  if (s.chan c).oneShot then
    setChan c { s.chan c with armed := false, oneShot := false, count := 0 } s
  else
    setChan c { s.chan c with count := (s.chan c).period } s

/-- `ARM c, p` (R101, R104, R105). -/
def execArm (c : Chan) (p : Nat) (s : State) : Result := onlyInside (arm c p) s

/-- `DISARM c` (R102, R105). -/
def execDisarm (c : Chan) (s : State) : Result := onlyInside (fun s => .next (disarm c s)) s

/-- `REARM1 c, d` (R103, R104, R105). -/
def execRearm1 (c : Chan) (d : Nat) (s : State) : Result := onlyInside (rearm1 c d) s

end Sys2Proof.Machine
end

