-- ==== Sys2Proof/Machine/TxDriver.lean ====
section
/-! DEFINITION. The Transmit Bit-Driver (42_tx_driver.md): `TXSTART` and `TXTICK`. -/

namespace Sys2Proof.Machine

/-- The withdrawal (R140): the queued byte moves into `tx.pendingByte`, the slot and its flag are
cleared, the start bit goes on the pin. -/
def withdraw (s : State) : State :=
  let v := memRead .transmit s
  let b := slotByte v s
  setTx { phase := .sendingStart, pendingByte := b, bitsSent := 0 }
    (setPinTx false (setTransmitBusy false (memWrite .transmit none (noteDraw v s))))

/-- `TXSTART` as a sub-operation (R140): acts only in `Idle` with a byte queued. -/
def txStart (s : State) : Result :=
  if s.tx.phase = .idle ∧ s.mb.transmitBusy = true then
    arm .tx s.cfg.bitPeriod (withdraw s)
  else .next s

/-- Firing 1, the end of the start bit (R142). -/
def txStartBitEnd (s : State) : State :=
  setTx { s.tx with phase := .sendingBit 0, bitsSent := bitCount 1 }
    (setPinTx (dataBit s.tx.pendingByte 0) s)

/-- Firings 2 to 9: the end of data bit `i`, followed by data bit `i + 1` (R143) or, after bit 7, by
the stop bit (R144). -/
def txDataBitEnd (i : Fin 8) (s : State) : State :=
  if h : i.val < 7 then
    let j : Fin 8 := ⟨i.val + 1, by omega⟩
    setTx { s.tx with phase := .sendingBit j, bitsSent := bitCount (i.val + 2) }
      (setPinTx (dataBit s.tx.pendingByte j) s)
  else
    setTx { s.tx with phase := .sendingStop } (setPinTx true s)

/-- Firing 10, the end of the stop bit (R146): the frame ends and a queued byte starts the next. -/
def txStopBitEnd (s : State) : Result :=
  txStart (setTx { phase := .idle, pendingByte := 0, bitsSent := 0 } (disarm .tx s))

/-- The handler body chosen by `tx.phase`, after `Fire(TX)` (R141). -/
def txBody (s : State) : Result :=
  match s.tx.phase with
  | .sendingStart => .next (txStartBitEnd s)
  | .sendingBit i => .next (txDataBitEnd i s)
  | .sendingStop => txStopBitEnd s
  | .idle => .refused .unreachable

/-- The handler of a firing of channel `TX` (R141). -/
def txTickHandler (s : State) : Result :=
  if s.ctl.initialised then
    if s.tm.tx.armed then txBody (fire .tx s)
    else .refused .spuriousTick
  else .refused .notInitialised

/-- `TXSTART` (R140, R105). -/
def execTxstart (s : State) : Result := onlyInside txStart s

/-- `TXTICK` (R141). -/
def execTxtick (s : State) : Result := takeInterrupt txTickHandler s

end Sys2Proof.Machine
end

