-- ==== Sys2Proof/Machine/MailboxApi.lean ====
section
/-! DEFINITION. The driver interface (43_mailbox_api.md): `INIT`, `GETC`, `PUTC`. -/

namespace Sys2Proof.Machine

/-- The after-`INIT` column of R38 (R165, R241): everything 0, both slots empty, `pin.tx` high,
interrupts enabled. -/
def initialise (s : State) : State :=
  { s with
    rx := { phase := .idle, shiftRegister := 0, bitsReceived := 0 }
    tx := { phase := .idle, pendingByte := 0, bitsSent := 0 }
    mb := { receivedByte := none, receivedReady := false, transmitByte := none, transmitBusy := false }
    tm := { rx := Channel.zero, tx := Channel.zero }
    pin := { tx := true, rxPrev := false }
    err := { framing := false, overrun := false }
    ctl := { initialised := true, gie := true } }

/-- Withdraws the received byte and returns it (R160). -/
def takeReceived (s : State) : State :=
  let v := memRead .received s
  emit (.getc (some (slotByte v s)))
    (setReceivedReady false (memWrite .received none (noteDraw v s)))

/-- `INIT` (R165); a second one is refused (R166). -/
def execInit (s : State) : Result :=
  if s.ctl.initialised then .refused .reInit else .next (initialise s)

/-- `GETC` (R160): one atomic step (R161); the caller's byte is not its business (`storeReturned`). -/
def execGetc (s : State) : Result :=
  if s.ctl.initialised then
    if s.mb.receivedReady then .next (takeReceived s)
    else .next (emit (.getc none) s)
  else .refused .notInitialised

/-- `PUTC b` (R162): a free slot takes the byte and wakes the driver, whose `TXSTART` runs inside this
same operation (R163). -/
def execPutc (b : Byte) (s : State) : Result :=
  if s.ctl.initialised then
    if s.mb.transmitBusy then .next (emit (.putc false) (signal .transmitContention s))
    else
      andThen (takeInterrupt txStart (setTransmitBusy true (memWrite .transmit (some b) s)))
        (fun s => .next (emit (.putc true) s))
  else .refused .notInitialised

end Sys2Proof.Machine
end

