-- ==== Sys2Proof/Machine/RxSampler.lean ====
section
/-! DEFINITION. The Receive Bit-Sampler (41_rx_sampler.md): `EDGE`, `RXTICK l` and the deposit. -/

namespace Sys2Proof.Machine

/-- `Deposit(b)` (R127): hands a completed byte to the receive slot, by the overrun policy. -/
def deposit (b : Byte) (s : State) : State :=
  if s.mb.receivedReady then
    let s := setOverrun (signal .receiveOverrun s)
    match s.cfg.overrun with
    | .overwrite => memWrite .received (some b) s
    | .dropNew => s
  else
    setReceivedReady true (memWrite .received (some b) s)

/-- The handler of the pin-edge interrupt (R120): acts only where `edgeEnable` holds. -/
def edgeHandler (s : State) : Result :=
  if edgeEnable s then
    rearm1 .rx s.cfg.halfBit (setRx { phase := .startDetected, shiftRegister := 0, bitsReceived := 0 } s)
  else .next s

/-- Firing 1, the centre of the start bit (R122). -/
def rxStartBody (l : Level) (s : State) : Result :=
  if l then
    .next (disarm .rx (setRx { s.rx with phase := .idle } (signal .falseStart s)))
  else
    arm .rx s.cfg.bitPeriod (setRx { s.rx with phase := .samplingBit 0 } s)

/-- Firings 2 to 9, the centre of data bit `i` (R124). -/
def rxDataBody (i : Fin 8) (l : Level) (s : State) : State :=
  setRx { phase := afterSample i
          shiftRegister := shiftIn l s.rx.shiftRegister
          bitsReceived := bitCount (i.val + 1) } s

/-- What firing 10 does with the completed byte (R126): a high stop bit deposits it, a low one is a
framing error and deposits it only under `Deliver`. -/
def rxStopByte (l : Level) (s : State) : State :=
  if l then deposit s.rx.shiftRegister s
  else
    let s := setFraming (signal .framingError s)
    match s.cfg.framing with
    | .deliver => deposit s.rx.shiftRegister s
    | .discard => s

/-- Firing 10, the centre of the stop bit (R126). -/
def rxStopBody (l : Level) (s : State) : State :=
  setRx { phase := .idle, shiftRegister := 0, bitsReceived := 0 } (rxStopByte l (disarm .rx s))

/-- The handler body chosen by `rx.phase`, after `Fire(RX)` (R121). -/
def rxBody (l : Level) (s : State) : Result :=
  match s.rx.phase with
  | .startDetected => rxStartBody l s
  | .samplingBit i => .next (rxDataBody i l s)
  | .stopExpected => .next (rxStopBody l s)
  | .idle => .refused .unreachable

/-- The handler of a firing of channel `RX` with the input pin at `l` (R121). -/
def rxTickHandler (l : Level) (s : State) : Result :=
  if s.ctl.initialised then
    if s.tm.rx.armed then rxBody l (fire .rx s)
    else .refused .spuriousTick
  else .refused .notInitialised

/-- `EDGE` (R120). -/
def execEdge (s : State) : Result := takeInterrupt edgeHandler s

/-- `RXTICK l` (R121). -/
def execRxtick (l : Level) (s : State) : Result := takeInterrupt (rxTickHandler l) s

end Sys2Proof.Machine
end

