-- ==== Sys2Proof/Machine/TimeBase.lean ====
section
/-! DEFINITION. The timed layer (44_timebase.md): `CLK l`, the edge detector, and the loopback harness of R184. -/

namespace Sys2Proof.Machine

/-- `tm.count[c] <- tm.count[c] - 1` (R180), on the register's 16 bits (log 9). -/
def countDown (c : Chan) (s : State) : State :=
  setChan c { s.chan c with count := (s.chan c).count - 1 } s

/-- Steps 1 and 2 of R180: an armed channel counts down and, at 0, its handler runs. -/
def clockChan (c : Chan) (handler : State → Result) (s : State) : Result :=
  if (s.chan c).armed then
    let s := countDown c s
    if (s.chan c).count = 0 then takeInterrupt handler s else .next s
  else .next s

/-- A falling edge: the previous tick's level was 1 and this one's is 0 (R182). -/
def fallingEdge (l : Level) (s : State) : Bool := s.pin.rxPrev && !l

/-- Step 3 of R180: the edge detector. -/
def clockEdge (l : Level) (s : State) : Result :=
  andThen (if fallingEdge l s then takeInterrupt edgeHandler s else .next s)
    (fun s => .next (setRxPrev l s))

/-- `CLK l` (R180): `TXTICK`, then `RXTICK l`, then `EDGE` (R181); nothing before `INIT`. -/
def execClk (l : Level) (s : State) : Result :=
  if s.ctl.initialised then
    andThen (clockChan .tx txTickHandler s) fun s =>
    andThen (clockChan .rx (rxTickHandler l) s) fun s =>
    clockEdge l s
  else .next s

/-- One tick of the loopback harness (R184): the input pin is at the level `pin.tx` had when the
previous operation completed. -/
def loopbackTick (s : State) : Result := execClk s.pin.tx s

/-- `n` ticks of the loopback harness (R184). -/
def loopback : Nat → State → Result
  | 0, s => .next s
  | n + 1, s => andThen (loopbackTick s) (loopback n)

/-- `n` ticks with the input pin at `line 0`, `line 1`, … (R183). -/
def ticks (line : Nat → Level) : Nat → State → Result
  | 0, s => .next s
  | n + 1, s => andThen (execClk (line 0) s) (ticks (fun k => line (k + 1)) n)

end Sys2Proof.Machine
end

