-- ==== Sys2Proof/Machine/Dispatch.lean ====
section
/-! DEFINITION. One arm for each operation of 30_encoding.md R84. -/

namespace Sys2Proof.Machine

def exec (i : Instr) (s : State) : Host.Outcome State Fault Refusal :=
  match i with
  | .init => Sys2Proof.Machine.execInit s
  | .getc => Sys2Proof.Machine.execGetc s
  | .putc b => Sys2Proof.Machine.execPutc b s
  | .arm c p => Sys2Proof.Machine.execArm c p s
  | .disarm c => Sys2Proof.Machine.execDisarm c s
  | .rearm1 c d => Sys2Proof.Machine.execRearm1 c d s
  | .txstart => Sys2Proof.Machine.execTxstart s
  | .edge => Sys2Proof.Machine.execEdge s
  | .rxtick l => Sys2Proof.Machine.execRxtick l s
  | .txtick => Sys2Proof.Machine.execTxtick s
  | .clk l => Sys2Proof.Machine.execClk l s

end Sys2Proof.Machine
end

