-- ==== Sys2Proof/Machine/Step.lean ====
section
/-! DEFINITION. One step: the oldest thing delivered is taken; an operation word is decoded and performed. -/

namespace Sys2Proof.Machine

/-- One step (R9, R68, R88): an illegal word is refused with no state change; the application's store of a
returned byte is a step of its own (R161); where nothing has been delivered there is no transition
(log 4). -/
def step (s : State) : Host.Outcome State Fault Refusal :=
  match fetch s with
  | none => .refused .nothingDelivered
  | some (.storeByte, s') => .next (storeReturned s')
  | some (.op w, s') =>
    match decode w with
    | .error why => .refused (.illegalOperation why)
    | .ok i => exec i s'

/-- The state with one operation word delivered ahead of all others (log 4): a row's bits above
`nbits` are 0, and an operation word has 32 bits (R89). -/
def State.withFetchWord (s : State) (nbits w : Nat) : State :=
  deliverFirst (BitVec.ofNat 32 (w % 2 ^ nbits)) s

end Sys2Proof.Machine
end

