-- ==== Sys2Proof/Machine/Frame.lean ====
section
/-! DEFINITION. The serial frame on the wire (30_encoding.md R80 to R83, R92). -/

namespace Sys2Proof.Machine

/-- The frame carrying `b` (R81): `F = 1 :: b[7:0] :: 0`. -/
def frameWord (b : Byte) : BitVec 10 := 1#1 ++ b ++ 0#1

/-- Bit cell `k` of the frame carrying `b`, cell 0 first on the wire (R81). -/
def frameCell (b : Byte) (k : Nat) : Level := (frameWord b).getLsbD k

/-- The ten cells in the order they are on the wire (R81, R148). -/
def frameCells (b : Byte) : List Level := (List.range 10).map (frameCell b)

/-- `b = s_9 :: s_8 :: … :: s_2` (R92): the byte of the samples at firings 2 to 9; `s k` is the level
sampled at firing `k`. -/
def byteOfSamples (s : Nat → Level) : Byte :=
  BitVec.ofBool (s 9) ++ BitVec.ofBool (s 8) ++ BitVec.ofBool (s 7) ++ BitVec.ofBool (s 6) ++
    BitVec.ofBool (s 5) ++ BitVec.ofBool (s 4) ++ BitVec.ofBool (s 3) ++ BitVec.ofBool (s 2)

/-- What the ten samples of a frame mean (R92). -/
inductive Received where
  /-- `s_1 = 1`: nothing further is sampled. -/
  | falseStart
  /-- `s_1 = 0`, `s_10 = 1`. -/
  | byte (b : Byte)
  /-- `s_1 = 0`, `s_10 = 0`. -/
  | badStop (b : Byte)
  deriving DecidableEq, Repr

/-- Decoding a frame (R92). -/
def decodeFrame (s : Nat → Level) : Received :=
  if s 1 then .falseStart
  else if s 10 then .byte (byteOfSamples s)
  else .badStop (byteOfSamples s)

end Sys2Proof.Machine
end

