-- ==== Sys2Proof/Machine/Pseudo.lean ====
section
/-! DEFINITION. The pseudo-operations of 30_encoding.md R91, and the performance of a sequence of operations. -/

namespace Sys2Proof.Machine

/-- Performs a sequence of operations one after the other (R68), stopping at the first refusal. -/
def runOps : List Instr → State → Result
  | [], s => .next s
  | i :: rest, s => andThen (exec i s) (runOps rest)

/-- `uart_init()` (R91, R164). -/
def uartInit : List Instr := [.init]
/-- `uart_getc(out)` as it is delivered, with `*out` the state's caller byte: `GETC`, then, outside that
atomic step, the store of the byte it returned, if any (R91, R161, R164). -/
def uartGetc : List Delivered := [.op (encode .getc), .storeByte]
/-- `tryReceive()` (R91, R164). -/
def tryReceive : List Instr := [.getc]
/-- `uart_putc(value)` (R91, R164). -/
def uartPutc (b : Byte) : List Instr := [.putc b]
/-- `trySend(byte)` (R91, R164). -/
def trySend (b : Byte) : List Instr := [.putc b]
/-- `arm(i)` issued by the side that owns channel `c` (R91). -/
def sideArm (c : Chan) (i : Nat) : List Instr := [.arm c i]
/-- `disarm()` issued by the side that owns channel `c` (R91). -/
def sideDisarm (c : Chan) : List Instr := [.disarm c]
/-- `rearmOnce(d)` issued by the side that owns channel `c` (R91). -/
def sideRearmOnce (c : Chan) (d : Nat) : List Instr := [.rearm1 c d]

/-- An edge and the ten firings that sample `s 1` to `s 10` (R91, R92). -/
def rxSampled (s : Nat → Level) : List Instr :=
  .edge :: (List.range 10).map (fun k => .rxtick (s (k + 1)))

/-- `RXFRAME b` (R91): a well-formed frame delivered to the event layer. -/
def rxFrame (b : Byte) : List Instr := rxSampled (fun k => frameCell b (k - 1))

/-- `RXFRAME_BADSTOP b` (R91): the same with a low stop bit. -/
def rxFrameBadStop (b : Byte) : List Instr :=
  rxSampled (fun k => if k = 10 then false else frameCell b (k - 1))

/-- `TXRUN n` (R91). -/
def txRun (n : Nat) : List Instr := List.replicate n .txtick

end Sys2Proof.Machine
end

