-- ==== Sys2Proof/Safety.lean ====
section
/-! DEFINITION. The invariants of 10_state.md R37, the quiescent end of a run (R255), and the terms the statements
are made of. -/

namespace Sys2Proof.Machine

/-- What R37 says of one channel that is programmed with `BITPERIOD` and `HALFBIT` only: I8, and, so
that a step keeps I8, a periodic armed channel reloads `BITPERIOD` (rule R108). -/
structure ChannelOk (cfg : Config) (ch : Channel) : Prop where
  /-- I8, armed: `1 <= count <= BITPERIOD`. -/
  countArmed : ch.armed = true → 1 ≤ ch.count.toNat ∧ ch.count.toNat ≤ cfg.bitPeriod
  /-- I8, disarmed: `count = 0`. -/
  countDisarmed : ch.armed = false → ch.count = 0
  /-- The period of a running periodic channel (R101, R108). -/
  periodArmed : ch.armed = true → ch.oneShot = false → ch.period = ticksOf cfg.bitPeriod

/-- The level on the output pin in each phase, for the byte being sent (R24, R80): the phase names the bit
that is on the pin; the line idles high. -/
def TxPhase.level (b : Byte) : TxPhase → Level
  | .idle => true
  | .sendingStart => false
  | .sendingBit i => dataBit b i
  | .sendingStop => true

/-- The invariants I1 to I11 of R37 (of I11 the part about the state: the bits not yet filled are 0),
for an initialised block. -/
structure BlockOk (s : State) : Prop where
  /-- I1. -/
  readyIff : s.mb.receivedReady = s.mb.receivedByte.isSome
  /-- I2. -/
  busyIff : s.mb.transmitBusy = s.mb.transmitByte.isSome
  /-- I3. -/
  bitsReceived : s.rx.bitsReceived = s.rx.phase.bitsDone
  /-- I4. -/
  bitsSent : s.tx.bitsSent = s.tx.phase.bitsDone
  /-- I5. -/
  rxArmed : s.tm.rx.armed = decide (s.rx.phase ≠ .idle)
  /-- I6. -/
  txArmed : s.tm.tx.armed = decide (s.tx.phase ≠ .idle)
  /-- I7, receive. -/
  rxOneShot : s.tm.rx.oneShot = decide (s.rx.phase = .startDetected)
  /-- I7, transmit. -/
  txOneShot : s.tm.tx.oneShot = false
  /-- I8, receive. -/
  rxChannel : ChannelOk s.cfg s.tm.rx
  /-- I8, transmit. -/
  txChannel : ChannelOk s.cfg s.tm.tx
  /-- I9. -/
  txIdle : s.tx.phase = .idle → s.pin.tx = true ∧ s.mb.transmitBusy = false ∧ s.tx.pendingByte = 0
  /-- I10. -/
  rxQuiet : s.rx.phase = .idle ∨ s.rx.phase = .startDetected → s.rx.shiftRegister = 0
  /-- I11: in `SamplingBit(i)` bits `7-i..0` of the accumulator are zero. -/
  rxFilled : ∀ i : Fin 8, s.rx.phase = .samplingBit i →
    ∀ j : Fin 8, j.val + i.val < 8 → s.rx.shiftRegister.getLsbD j.val = false
  /-- R24: the phase names the bit that is currently on the pin. -/
  pinLevel : s.pin.tx = s.tx.phase.level s.tx.pendingByte

/-- A block that has completed its `INIT`, at the top level of a trace,
in which R37 holds and interrupts are enabled (R34). -/
structure Running (s : State) : Prop where
  topLevel : s.nesting = .topLevel
  initialised : s.ctl.initialised = true
  gie : s.ctl.gie = true
  ok : BlockOk s

/-- A block before its `INIT` (R38, R240): interrupts off, both channels disarmed. -/
structure PoweredOn (s : State) : Prop where
  topLevel : s.nesting = .topLevel
  initialised : s.ctl.initialised = false
  gie : s.ctl.gie = false
  rxDisarmed : s.tm.rx.armed = false
  txDisarmed : s.tm.tx.armed = false

/-- The invariant of the machine: before `INIT` R240, after it R37. -/
def Inv (s : State) : Prop := PoweredOn s ∨ Running s

/-- A trace has ended quiescent (R255): both sequencers idle, nothing queued, both channels disarmed. -/
def quiescent (s : State) : Bool :=
  decide (s.rx.phase = .idle) && decide (s.tx.phase = .idle) && !s.mb.transmitBusy && powerIdle s

/-- Two states agree on everything the transmit side owns (R25, R31, R40, V55). -/
def SameTransmitSide (s t : State) : Prop :=
  t.tx = s.tx ∧ t.pin.tx = s.pin.tx ∧ t.tm.tx = s.tm.tx ∧
    t.mb.transmitByte = s.mb.transmitByte ∧ t.mb.transmitBusy = s.mb.transmitBusy

/-- Two states agree on everything the receive side owns (R21, R32, R33, R40, V55). -/
def SameReceiveSide (s t : State) : Prop :=
  t.rx = s.rx ∧ t.pin.rxPrev = s.pin.rxPrev ∧ t.tm.rx = s.tm.rx ∧
    t.mb.receivedByte = s.mb.receivedByte ∧ t.mb.receivedReady = s.mb.receivedReady ∧ t.err = s.err

/-- Two states agree on the parameters, the control bits and the model's own fields, but for the
outputs shown. -/
def SameSurroundings (s t : State) : Prop :=
  t.cfg = s.cfg ∧ t.ctl = s.ctl ∧ t.nesting = s.nesting ∧ t.input = s.input ∧
    t.callerByte = s.callerByte ∧ t.draws = s.draws

end Sys2Proof.Machine
end

