-- ==== Sys2Proof/Certificates/Slice0/Obligations.lean ====
section
/-! DEFINITION. The statements for the provers, from the numbered rules of spec/. Each docstring names the rule. -/

open Sys2Proof Sys2Proof.Machine

/-! ## The operation word and the frame -/

/-- R85 to R89: every operation whose tick count fits `imm16` is read back from its word, whatever its
operands. -/
def Obligations.DecodeOfEncode : Prop :=
  ∀ i : Instr, i.wellFormed = true → decode (encode i) = .ok i

/-- R85 to R89: a word that spells an operation is the one word of that operation. -/
def Obligations.EncodeOfDecode : Prop :=
  ∀ (w : OpWord) (i : Instr), decode w = .ok i → i.wellFormed = true ∧ encode i = w

/-- R87: a word spells the operation of a row when `w AND mask = match`, the rows are disjoint, and the
operands are the row's free fields. -/
def Obligations.DecodeFollowsOpcodeTable : Prop :=
  (∀ (w : OpWord), ∀ r ∈ opRows, r.spells w = true → ∃ i, decode w = .ok i ∧ i.kind = r.kind) ∧
  (∀ (w : OpWord) (i : Instr), decode w = .ok i → ∃ r ∈ opRows, r.spells w = true ∧ r.kind = i.kind) ∧
  (∀ (w : OpWord), ∀ r ∈ opRows, ∀ r' ∈ opRows, r.spells w = true → r'.spells w = true → r = r') ∧
  (∀ (w : OpWord) (i : Instr), decode w = .ok i →
    match i with
    | .putc b => b = w.extractLsb' 0 8
    | .arm c p => c = (if w.getLsbD 27 then .tx else .rx) ∧ p = (w.extractLsb' 0 16).toNat
    | .disarm c => c = if w.getLsbD 27 then .tx else .rx
    | .rearm1 c d => c = (if w.getLsbD 27 then .tx else .rx) ∧ d = (w.extractLsb' 0 16).toNat
    | .rxtick l => l = w.getLsbD 26
    | .clk l => l = w.getLsbD 26
    | _ => True) ∧
  opRows = [
    { kind := .init, fixedBits := 0x10000000#32, mask := 0xFFFFFFFF#32 },
    { kind := .getc, fixedBits := 0x20000000#32, mask := 0xFFFFFFFF#32 },
    { kind := .putc, fixedBits := 0x30000000#32, mask := 0xFFFFFF00#32 },
    { kind := .arm, fixedBits := 0x40000000#32, mask := 0xF7FF0000#32 },
    { kind := .disarm, fixedBits := 0x50000000#32, mask := 0xF7FFFFFF#32 },
    { kind := .rearm1, fixedBits := 0x60000000#32, mask := 0xF7FF0000#32 },
    { kind := .txstart, fixedBits := 0x70000000#32, mask := 0xFFFFFFFF#32 },
    { kind := .edge, fixedBits := 0x80000000#32, mask := 0xFFFFFFFF#32 },
    { kind := .rxtick, fixedBits := 0x90000000#32, mask := 0xFBFFFFFF#32 },
    { kind := .txtick, fixedBits := 0xA0000000#32, mask := 0xFFFFFFFF#32 },
    { kind := .clk, fixedBits := 0xB0000000#32, mask := 0xFBFFFFFF#32 } ]

/-- R88: exactly the words with opcode 0 or `0xC..0xF`, or with a must-be-zero field that is not zero, are
illegal; every other word spells an operation; an illegal word is refused by the step whatever the
state, and the refusal carries no state. -/
def Obligations.IllegalWordsRefused : Prop :=
  (∀ w : OpWord, (∃ why, decode w = .error why) ↔
    ((fields w).opc = 0x0#4 ∨ 0xC ≤ (fields w).opc.toNat ∨ (fields w).zero ≠ 0 ∨
     ((fields w).ch = true ∧ (fields w).opc ∉ [0x4#4, 0x5#4, 0x6#4]) ∨
     ((fields w).lvl = true ∧ (fields w).opc ∉ [0x9#4, 0xB#4]) ∨
     ((fields w).imm ≠ 0 ∧ (fields w).opc ∉ [0x3#4, 0x4#4, 0x6#4]) ∨
     ((fields w).opc = 0x3#4 ∧ (fields w).imm.extractLsb' 8 8 ≠ 0))) ∧
  (∀ w : OpWord, (∃ why, decode w = .error why) ↔ ∀ r ∈ opRows, r.spells w = false) ∧
  (∀ (s : State) (w : OpWord) (rest : List Delivered) (why : Illegal),
    s.input = .op w :: rest → decode w = .error why → step s = .refused (.illegalOperation why))

/-- 95_test_vectors.md V1: operation words of every row, written out. -/
def Obligations.TableWordsDecode : Prop :=
  decode 0x10000000#32 = .ok .init ∧ decode 0x20000000#32 = .ok .getc ∧
  decode 0x30000041#32 = .ok (.putc 0x41#8) ∧ decode 0x4800FFFF#32 = .ok (.arm .tx 65535) ∧
  decode 0x40000068#32 = .ok (.arm .rx 104) ∧ decode 0x58000000#32 = .ok (.disarm .tx) ∧
  decode 0x60000034#32 = .ok (.rearm1 .rx 52) ∧ decode 0x68000001#32 = .ok (.rearm1 .tx 1) ∧
  decode 0x70000000#32 = .ok .txstart ∧ decode 0x80000000#32 = .ok .edge ∧
  decode 0x94000000#32 = .ok (.rxtick true) ∧ decode 0xA0000000#32 = .ok .txtick ∧
  decode 0xB0000000#32 = .ok (.clk false) ∧ decode 0xB4000000#32 = .ok (.clk true)

/-- R39: the numeric codes of the phases, each naming one phase; codes 11 to 15 name none. -/
def Obligations.PhaseCodesNameThePhases : Prop :=
  RxPhase.code .idle = 0 ∧ RxPhase.code .startDetected = 1 ∧ RxPhase.code .stopExpected = 10 ∧
  (∀ i : Fin 8, (RxPhase.code (.samplingBit i)).toNat = 2 + i.val) ∧
  TxPhase.code .idle = 0 ∧ TxPhase.code .sendingStart = 1 ∧ TxPhase.code .sendingStop = 10 ∧
  (∀ i : Fin 8, (TxPhase.code (.sendingBit i)).toNat = 2 + i.val) ∧
  (∀ p : RxPhase, RxPhase.ofCode p.code = some p) ∧
  (∀ p : TxPhase, TxPhase.ofCode p.code = some p) ∧
  (∀ c : BitVec 4, 11 ≤ c.toNat → RxPhase.ofCode c = none ∧ TxPhase.ofCode c = none)

/-- R80, R81: the ten cells of a frame, and its 10-bit word. -/
def Obligations.FrameCellsOfByte : Prop :=
  ∀ b : Byte, frameWord b = 0x200#10 ||| (b.setWidth 10 <<< 1) ∧
    frameCell b 0 = false ∧ (∀ i : Fin 8, frameCell b (i.val + 1) = b.getLsbD i.val) ∧
    frameCell b 9 = true ∧ (frameCells b).length = 10

/-- R92: the byte of ten samples has bit `i` equal to sample `i + 2`; a frame's own cells decode to its
byte; a high first sample is a false start; a low tenth sample is a bad stop bit. -/
def Obligations.FrameDecoding : Prop :=
  (∀ (s : Nat → Level) (i : Fin 8), (byteOfSamples s).getLsbD i.val = s (i.val + 2)) ∧
  (∀ s : Nat → Level,
    (s 1 = true → decodeFrame s = .falseStart) ∧
    (s 1 = false → s 10 = true → decodeFrame s = .byte (byteOfSamples s)) ∧
    (s 1 = false → s 10 = false → decodeFrame s = .badStop (byteOfSamples s))) ∧
  (∀ b : Byte, decodeFrame (fun k => frameCell b (k - 1)) = .byte b)

/-! ## The step -/

/-- R9, R68: when the oldest thing delivered is an operation word, the step performs its operation, on the state
from which that word has been taken; and a word placed by `withFetchWord` is performed next, on the very state. -/
def Obligations.StepRunsDecodedInstruction : Prop :=
  (∀ (s : State) (w : OpWord) (rest : List Delivered) (i : Instr),
    s.input = .op w :: rest → decode w = .ok i → step s = exec i { s with input := rest }) ∧
  (∀ (s : State) (w : OpWord) (i : Instr),
    decode w = .ok i → step (s.withFetchWord 32 w.toNat) = exec i s) ∧
  (∀ (s : State) (i : Instr),
    i.wellFormed = true → step { s with input := .op (encode i) :: s.input } = exec i s)

/-- R8: exactly the parameter sets with `2 <= BITPERIOD <= 2^TIMER_WIDTH - 1` can be built, an invalid one is
refused; so every block that there is has a valid set, with `HALFBIT >= 1` and both intervals fitting a
channel register; and no operation that an agent issues meets the test of an interval (it is no
run-time error). -/
def Obligations.InvalidParametersNotBuilt : Prop :=
  (∀ (f b : Nat) (p : FramingPolicy) (q : OverrunPolicy),
    (Config.build f b p q = none ↔ ¬(2 ≤ f / b ∧ f / b ≤ 2 ^ 16 - 1)) ∧
    (∀ g, Config.build f b p q = some g →
      g.fClk = f ∧ g.baud = b ∧ g.framing = p ∧ g.overrun = q ∧ g.bitPeriod = f / b)) ∧
  (∀ s : State, 2 ≤ s.cfg.bitPeriod ∧ s.cfg.bitPeriod ≤ 2 ^ 16 - 1 ∧
    1 ≤ s.cfg.halfBit ∧ s.cfg.halfBit ≤ 2 ^ 16 - 1) ∧
  (∀ (s : State) (i : Instr), i.context ≠ .internal → exec i s ≠ .refused .badInterval)

/-! ## INIT, GETC, PUTC -/

/-- R165: `INIT` brings every element to the after-`INIT` column of R38 from any power-on state, changes
nothing else, and is refused a second time (R166). -/
def Obligations.InitResetsEverything : Prop :=
  ∀ s : State,
    (s.ctl.initialised = false → exec .init s = .next { s with
      rx := { phase := .idle, shiftRegister := 0, bitsReceived := 0 }
      tx := { phase := .idle, pendingByte := 0, bitsSent := 0 }
      mb := { receivedByte := none, receivedReady := false, transmitByte := none, transmitBusy := false }
      tm := { rx := { armed := false, oneShot := false, count := 0, period := 0 }
              tx := { armed := false, oneShot := false, count := 0, period := 0 } }
      pin := { tx := true, rxPrev := false }
      err := { framing := false, overrun := false }
      ctl := { initialised := true, gie := true } }) ∧
    (s.ctl.initialised = true → exec .init s = .refused .reInit) ∧
    decode 0x10000000#32 = .ok .init

/-- R166: what is refused outside the lifecycle, and what completes with no effect before `INIT`. -/
def Obligations.OutsideTheLifecycle : Prop :=
  ∀ s : State,
    (s.ctl.initialised = true → exec .init s = .refused .reInit) ∧
    (s.ctl.initialised = false →
      exec .getc s = .refused .notInitialised ∧
      (∀ b : Byte, exec (.putc b) s = .refused .notInitialised) ∧
      (∀ l : Level, exec (.rxtick l) s = .refused .notInitialised) ∧
      exec .txtick s = .refused .notInitialised ∧
      exec .edge s = .next s ∧
      (∀ l : Level, exec (.clk l) s = .next s))

/-- R160: `GETC` takes the received byte if there is one; otherwise nothing changes but the answer
`(false, -)`; a second `GETC` finds nothing; and only a receive firing in `StopExpected` sets the flag. -/
def Obligations.GetcTakesReceivedByte : Prop :=
  (∀ s : State, s.ctl.initialised = false → exec .getc s = .refused .notInitialised) ∧
  (∀ (s : State) (b : Byte), s.ctl.initialised = true → s.mb.receivedReady = true →
    s.mb.receivedByte = some b →
      exec .getc s = .next { s with
        mb := { s.mb with receivedByte := none, receivedReady := false }
        outputs := .getc (some b) :: s.outputs }) ∧
  (∀ s : State, s.ctl.initialised = true → s.mb.receivedReady = false →
    exec .getc s = .next { s with outputs := .getc none :: s.outputs }) ∧
  (∀ s t : State, exec .getc s = .next t →
    exec .getc t = .next { t with outputs := .getc none :: t.outputs }) ∧
  (∀ (i : Instr) (s t : State), exec i s = .next t →
    s.mb.receivedReady = false → t.mb.receivedReady = true →
      s.rx.phase = .stopExpected ∧ (∃ l, i = .rxtick l ∨ i = .clk l)) ∧
  decode 0x20000000#32 = .ok .getc

/-- R161, R91: no operation of the block writes the caller's byte, `GETC` included; the application's store is a
step of its own that writes it with the byte the latest `GETC` returned, and not at all after
`(false, -)`; `uart_getc` is `GETC` and then the store; and nothing that is performed between the two
changes the byte that will be stored. That the store is delivered as an event of its own is the
model's choice, log 7. -/
def Obligations.CallerByteWrittenOnSuccess : Prop :=
  (∀ (i : Instr) (s t : State), exec i s = .next t → t.callerByte = s.callerByte) ∧
  (∀ (s : State) (rest : List Delivered), s.input = .storeByte :: rest →
    step s = .next { s with input := rest, callerByte := (lastGetc s.outputs).getD s.callerByte }) ∧
  (∀ (s : State) (b : Byte) (rest : List Delivered), s.input = uartGetc ++ rest →
    s.ctl.initialised = true → s.mb.receivedReady = true → s.mb.receivedByte = some b →
    ∃ t, step s = .next t ∧ t.callerByte = s.callerByte ∧ t.mb.receivedReady = false ∧
      step t = .next { t with input := rest, callerByte := b }) ∧
  (∀ (s : State) (rest : List Delivered), s.input = uartGetc ++ rest →
    s.ctl.initialised = true → s.mb.receivedReady = false →
    ∃ t, step s = .next t ∧ t.callerByte = s.callerByte ∧ step t = .next { t with input := rest }) ∧
  (∀ (ops : List Instr) (s t : State), (∀ i ∈ ops, i ≠ .getc) → runOps ops s = .next t →
    lastGetc t.outputs = lastGetc s.outputs)

/-- The free byte of log 8 (the model's choice: the spec states no byte for a slot whose flag is set while it
is empty): `GETC` then completes with the slot cleared and some byte returned, and `TXSTART`
starts a frame with some byte. No value is claimed. -/
def Obligations.EmptySlotWithFlagCompletes : Prop :=
  (∀ s : State, s.ctl.initialised = true → s.mb.receivedReady = true → s.mb.receivedByte = none →
    ∃ b : Byte, exec .getc s = .next { s with
      mb := { s.mb with receivedReady := false }
      outputs := .getc (some b) :: s.outputs, draws := s.draws + 1 }) ∧
  (∀ s : State, s.nesting = .inside → s.tx.phase = .idle →
    s.mb.transmitBusy = true → s.mb.transmitByte = none → s.tm.tx.armed = false →
    ∃ b : Byte, exec .txstart s = .next { s with
      tx := { phase := .sendingStart, pendingByte := b, bitsSent := 0 }
      pin := { s.pin with tx := false }
      mb := { s.mb with transmitBusy := false }
      tm := { s.tm with tx := { armed := true, oneShot := false, count := ticksOf s.cfg.bitPeriod,
                                period := ticksOf s.cfg.bitPeriod } }
      draws := s.draws + 1 })

/-- R162, R163: the three situations `PUTC` can meet, in a block that has completed its `INIT`: from rest the
byte goes on the wire at once, during a frame it is queued, behind a queued byte it is turned away. -/
def Obligations.PutcStartsQueuesOrFails : Prop :=
  (∀ (s : State) (b : Byte), s.ctl.initialised = false → exec (.putc b) s = .refused .notInitialised) ∧
  (∀ (s : State) (b : Byte), Running s → s.tx.phase = .idle →
    exec (.putc b) s = .next { s with
      tx := { phase := .sendingStart, pendingByte := b, bitsSent := 0 }
      pin := { s.pin with tx := false }
      mb := { s.mb with transmitByte := none, transmitBusy := false }
      tm := { s.tm with tx := { armed := true, oneShot := false, count := ticksOf s.cfg.bitPeriod,
                                period := ticksOf s.cfg.bitPeriod } }
      outputs := .putc true :: s.outputs }) ∧
  (∀ (s : State) (b : Byte), s.ctl.initialised = true → s.tx.phase ≠ .idle → s.mb.transmitBusy = false →
    exec (.putc b) s = .next { s with
      mb := { s.mb with transmitByte := some b, transmitBusy := true }
      outputs := .putc true :: s.outputs }) ∧
  (∀ (s : State) (b : Byte), s.ctl.initialised = true → s.mb.transmitBusy = true →
    exec (.putc b) s = .next { s with
      outputs := .putc false :: .signal .transmitContention :: s.outputs }) ∧
  (∀ b : Byte, decode (0x30000000#32 ||| b.setWidth 32) = .ok (.putc b))

/-! ## The Bit-Timer Controller -/

/-- R101: `ARM c, p` performed inside another operation starts a disarmed channel and changes nothing on an
armed one, whatever the interval and the mode of the channel. -/
def Obligations.ArmStartsDisarmedChannel : Prop :=
  ∀ (s : State) (c : Chan) (p : Nat), s.nesting = .inside →
    (p < 1 ∨ 2 ^ 16 - 1 < p → exec (.arm c p) s = .refused .badInterval) ∧
    (1 ≤ p → p ≤ 2 ^ 16 - 1 → (s.chan c).armed = false →
      exec (.arm c p) s = .next (setChan c
        { armed := true, oneShot := false, count := BitVec.ofNat 16 p, period := BitVec.ofNat 16 p } s)) ∧
    (1 ≤ p → p ≤ 2 ^ 16 - 1 → (s.chan c).armed = true → exec (.arm c p) s = .next s) ∧
    (fields (encode (.arm c p))).opc = 0x4#4

/-- R102: `DISARM c` stops the channel, keeps its period, and writes nothing on a channel already stopped
with count and mode 0. A channel that is stopped, by it or otherwise, has no firing: a firing issued to it is
refused, a tick does not perform one (the transmit side, and the receive slot and the error flags, are as
before; of the rest of the receive side only the edge of R120 changes anything); and it stays stopped
until an `ARM` or a `REARM1` of it, issued as such or performed inside `PUTC`, `TXSTART`, `EDGE` or the
tick that sees an edge. -/
def Obligations.DisarmStopsChannel : Prop :=
  (∀ (s : State) (c : Chan), s.nesting = .inside →
    exec (.disarm c) s = .next (setChan c
      { armed := false, oneShot := false, count := 0, period := (s.chan c).period } s) ∧
    (s.chan c = { armed := false, oneShot := false, count := 0, period := (s.chan c).period } →
      exec (.disarm c) s = .next s)) ∧
  (∀ (s t : State) (c : Chan), exec (.disarm c) s = .next t → (t.chan c).armed = false) ∧
  (∀ (s : State) (l : Level), s.ctl.initialised = true → s.tm.rx.armed = false →
    exec (.rxtick l) s = .refused .spuriousTick) ∧
  (∀ s : State, s.ctl.initialised = true → s.tm.tx.armed = false →
    exec .txtick s = .refused .spuriousTick) ∧
  (∀ (s t : State) (l : Level), exec (.clk l) s = .next t →
    (s.tm.tx.armed = false → SameTransmitSide s t) ∧
    (s.tm.rx.armed = false →
      t.mb.receivedByte = s.mb.receivedByte ∧ t.mb.receivedReady = s.mb.receivedReady ∧ t.err = s.err ∧
      (¬(s.pin.rxPrev = true ∧ l = false) → t.rx = s.rx ∧ t.tm.rx = s.tm.rx))) ∧
  (∀ (i : Instr) (s t : State) (c : Chan), exec i s = .next t →
    (s.chan c).armed = false → (t.chan c).armed = true →
      (∃ n, i = .arm c n ∨ i = .rearm1 c n) ∨
      (c = .tx ∧ (i = .txstart ∨ ∃ b, i = .putc b)) ∨
      (c = .rx ∧ (i = .edge ∨ (i = .clk false ∧ s.pin.rxPrev = true)))) ∧
  (∀ c : Chan, (fields (encode (.disarm c))).opc = 0x5#4)

/-- R103: `REARM1 c, d` schedules one firing, overriding a count in progress, and keeps the period; at that
firing the channel disarms itself. -/
def Obligations.Rearm1SchedulesOneFiring : Prop :=
  ∀ (s : State) (c : Chan) (d : Nat), s.nesting = .inside →
    (d < 1 ∨ 2 ^ 16 - 1 < d → exec (.rearm1 c d) s = .refused .badInterval) ∧
    (1 ≤ d → d ≤ 2 ^ 16 - 1 →
      exec (.rearm1 c d) s = .next (setChan c
        { armed := true, oneShot := true, count := BitVec.ofNat 16 d, period := (s.chan c).period } s)) ∧
    (∀ t : State, exec (.rearm1 c d) s = .next t → ((fire c t).chan c).armed = false) ∧
    (fields (encode (.rearm1 c d))).opc = 0x6#4

/-- What writing one channel leaves (the frame of `ARM`, `DISARM`, `REARM1`, R30, R102): the other channel and
everything that is not the timer, and the channel named holds what was written. -/
def Obligations.TimerOperationsFrame : Prop :=
  ∀ (i : Instr) (s t : State) (c : Chan),
    (i = .disarm c ∨ (∃ p, i = .arm c p) ∨ (∃ d, i = .rearm1 c d)) → exec i s = .next t →
      (∀ d : Chan, d ≠ c → t.chan d = s.chan d) ∧
      t.rx = s.rx ∧ t.tx = s.tx ∧ t.mb = s.mb ∧ t.pin = s.pin ∧ t.err = s.err ∧
      t.outputs = s.outputs ∧ SameSurroundings s t ∧
      (i ≠ .disarm c → (t.chan c).armed = true)

/-- R104: an interval or delay of 0, or one that does not fit `TIMER_WIDTH` bits, is refused; with valid
parameters the block only ever programs intervals that are accepted. -/
def Obligations.BadIntervalsRefused : Prop :=
  (∀ (s : State) (c : Chan) (n : Nat), s.nesting = .inside →
    ((n = 0 ∨ 2 ^ 16 ≤ n) ↔ exec (.arm c n) s = .refused .badInterval) ∧
    ((n = 0 ∨ 2 ^ 16 ≤ n) ↔ exec (.rearm1 c n) s = .refused .badInterval)) ∧
  (∀ g : Config,
    1 ≤ g.bitPeriod ∧ g.bitPeriod ≤ 2 ^ 16 - 1 ∧ 1 ≤ g.halfBit ∧ g.halfBit ≤ 2 ^ 16 - 1) ∧
  (∀ (s : State) (i : Instr), i.context ≠ .internal →
    exec i s ≠ .refused .badInterval)

/-- R105, R206: the sub-operations are refused at the top level of a trace. -/
def Obligations.SubOperationsRefusedAtTopLevel : Prop :=
  ∀ (s : State) (i : Instr), s.nesting = .topLevel → i.context = .internal →
    exec i s = .refused .internalOnly

/-- R106: the firing step, and the refusal of a firing of a disarmed channel. -/
def Obligations.FiringStep : Prop :=
  (∀ (s : State) (c : Chan), (s.chan c).oneShot = true →
    fire c s = setChan c
      { armed := false, oneShot := false, count := 0, period := (s.chan c).period } s) ∧
  (∀ (s : State) (c : Chan), (s.chan c).oneShot = false →
    fire c s = setChan c { s.chan c with count := (s.chan c).period } s) ∧
  (∀ (s : State) (l : Level), s.ctl.initialised = true → s.tm.rx.armed = false →
    exec (.rxtick l) s = .refused .spuriousTick) ∧
  (∀ s : State, s.ctl.initialised = true → s.tm.tx.armed = false →
    exec .txtick s = .refused .spuriousTick)

/-! ## The Receive Bit-Sampler -/

/-- R120: `EDGE` is acted on only in `Idle` after `INIT` with interrupts enabled, and then programs one firing
`HALFBIT` ticks away; otherwise it completes with no change. -/
def Obligations.EdgeStartsReception : Prop :=
  (∀ s : State, s.ctl.initialised = true → s.ctl.gie = true → s.rx.phase = .idle →
    exec .edge s = .next { s with
      rx := { phase := .startDetected, shiftRegister := 0, bitsReceived := 0 }
      tm := { s.tm with rx := { armed := true, oneShot := true, count := ticksOf s.cfg.halfBit,
                                period := s.tm.rx.period } } }) ∧
  (∀ s : State, s.ctl.initialised = false ∨ s.ctl.gie = false ∨ s.rx.phase ≠ .idle →
    exec .edge s = .next s) ∧
  decode 0x80000000#32 = .ok .edge

/-- R122: firing 1 validates the start bit: a high sample is a false start, after which the receive side is as
after `INIT` but for the period register; a low one starts the periodic channel. -/
def Obligations.StartBitValidated : Prop :=
  ∀ s : State, Running s → s.rx.phase = .startDetected →
    exec (.rxtick true) s = .next { s with
      rx := { phase := .idle, shiftRegister := 0, bitsReceived := 0 }
      tm := { s.tm with rx := { armed := false, oneShot := false, count := 0, period := s.tm.rx.period } }
      outputs := .signal .falseStart :: s.outputs } ∧
    exec (.rxtick false) s = .next { s with
      rx := { phase := .samplingBit 0, shiftRegister := 0, bitsReceived := 0 }
      tm := { s.tm with rx := { armed := true, oneShot := false, count := ticksOf s.cfg.bitPeriod,
                                period := ticksOf s.cfg.bitPeriod } } }

/-- R124: firing `i + 2` shifts the sample in at bit 7, `(l << 7) | (sr >> 1)`, counts it, and moves on to the
next data bit or to the stop bit; the periodic channel reloads. -/
def Obligations.DataBitSampled : Prop :=
  ∀ (s : State) (l : Level) (i : Fin 8), Running s → s.rx.phase = .samplingBit i →
    exec (.rxtick l) s = .next { s with
      rx := { phase := if h : i.val < 7 then .samplingBit ⟨i.val + 1, Nat.succ_lt_succ h⟩ else .stopExpected
              shiftRegister := (if l then 0x80#8 else 0x00#8) ||| (s.rx.shiftRegister >>> 1)
              bitsReceived := BitVec.ofNat 4 (i.val + 1) }
      tm := { s.tm with rx := { armed := true, oneShot := false, count := ticksOf s.cfg.bitPeriod,
                                period := ticksOf s.cfg.bitPeriod } } }

/-- R125: the accumulator after `j` samples `s 0 .. s (j - 1)` from `0x00`. -/
def Obligations.AccumulatorAfterSamples : Prop :=
  ∀ (s : Nat → Level) (j : Nat), j ≤ 8 →
    ((List.range j).foldl (fun a k => shiftIn (s k) a) (0 : Byte)).toNat =
      ((List.range j).map (fun k => if s k then 2 ^ (8 - j + k) else 0)).sum

/-- R126, R127: firing 10 disarms the channel and returns to `Idle` in every case; a high stop bit deposits the
byte; a low one is a framing error and deposits it only under `Deliver`; a deposit into a full slot is
an overrun settled by the policy. -/
def Obligations.StopBitEndsFrame : Prop :=
  ∀ (s u : State), Running s → s.rx.phase = .stopExpected →
    u = { s with
      rx := { phase := .idle, shiftRegister := 0, bitsReceived := 0 }
      tm := { s.tm with rx := { armed := false, oneShot := false, count := 0, period := s.tm.rx.period } } } →
    (s.mb.receivedReady = false →
      exec (.rxtick true) s = .next { u with
        mb := { s.mb with receivedByte := some s.rx.shiftRegister, receivedReady := true } }) ∧
    (s.mb.receivedReady = true → s.cfg.overrun = .dropNew →
      exec (.rxtick true) s = .next { u with
        err := { s.err with overrun := true }
        outputs := .signal .receiveOverrun :: s.outputs }) ∧
    (s.mb.receivedReady = true → s.cfg.overrun = .overwrite →
      exec (.rxtick true) s = .next { u with
        mb := { s.mb with receivedByte := some s.rx.shiftRegister }
        err := { s.err with overrun := true }
        outputs := .signal .receiveOverrun :: s.outputs }) ∧
    (s.cfg.framing = .discard →
      exec (.rxtick false) s = .next { u with
        err := { s.err with framing := true }
        outputs := .signal .framingError :: s.outputs }) ∧
    (s.cfg.framing = .deliver → s.mb.receivedReady = false →
      exec (.rxtick false) s = .next { u with
        mb := { s.mb with receivedByte := some s.rx.shiftRegister, receivedReady := true }
        err := { s.err with framing := true }
        outputs := .signal .framingError :: s.outputs }) ∧
    (s.cfg.framing = .deliver → s.mb.receivedReady = true → s.cfg.overrun = .dropNew →
      exec (.rxtick false) s = .next { u with
        err := { framing := true, overrun := true }
        outputs := .signal .receiveOverrun :: .signal .framingError :: s.outputs }) ∧
    (s.cfg.framing = .deliver → s.mb.receivedReady = true → s.cfg.overrun = .overwrite →
      exec (.rxtick false) s = .next { u with
        mb := { s.mb with receivedByte := some s.rx.shiftRegister }
        err := { framing := true, overrun := true }
        outputs := .signal .receiveOverrun :: .signal .framingError :: s.outputs })

/-- R127: `Deposit(b)` in an empty and in a full slot, under either policy. -/
def Obligations.DepositByPolicy : Prop :=
  ∀ (s : State) (b : Byte),
    (s.mb.receivedReady = false → deposit b s = { s with
      mb := { s.mb with receivedByte := some b, receivedReady := true } }) ∧
    (s.mb.receivedReady = true → s.cfg.overrun = .dropNew → deposit b s = { s with
      err := { s.err with overrun := true }
      outputs := .signal .receiveOverrun :: s.outputs }) ∧
    (s.mb.receivedReady = true → s.cfg.overrun = .overwrite → deposit b s = { s with
      mb := { s.mb with receivedByte := some b }
      err := { s.err with overrun := true }
      outputs := .signal .receiveOverrun :: s.outputs })

/-- R128: the complete transition table of `rx.phase`; `CLK` performs the operations of the table and has no
row of its own. -/
def Obligations.ReceiveTransitionTable : Prop :=
  ∀ (i : Instr) (s : State),
    (∀ t : State, exec i s = .next t → (∀ l, i ≠ .clk l) →
      t.rx.phase =
        match i, s.rx.phase with
        | .init, _ => .idle
        | .edge, .idle => if s.ctl.initialised && s.ctl.gie then .startDetected else .idle
        | .rxtick true, .startDetected => .idle
        | .rxtick false, .startDetected => .samplingBit 0
        | .rxtick _, .samplingBit j =>
          if h : j.val < 7 then .samplingBit ⟨j.val + 1, Nat.succ_lt_succ h⟩ else .stopExpected
        | .rxtick _, .stopExpected => .idle
        | _, p => p) ∧
    (Running s → s.rx.phase = .idle → ∀ l : Level, exec (.rxtick l) s = .refused .spuriousTick)

/-- R129, R92: an edge and the ten firings that sample `smp 1` to `smp 10` leave an idle receiver as decoding the
frame of those samples says: a false start changes nothing but the outputs, a valid frame deposits its
byte, a bad stop bit is a framing error settled by the policy. -/
def Obligations.ReceptionDecodesFrame : Prop :=
  ∀ (s u : State) (smp : Nat → Level), Running s → s.rx.phase = .idle →
    u = { s with tm := { s.tm with rx :=
      { armed := false, oneShot := false, count := 0, period := ticksOf s.cfg.bitPeriod } } } →
    match decodeFrame smp with
    | .falseStart =>
      runOps [.edge, .rxtick (smp 1)] s = .next { s with outputs := .signal .falseStart :: s.outputs }
    | .byte b => runOps (rxSampled smp) s = .next (deposit b u)
    | .badStop b =>
      runOps (rxSampled smp) s = .next
        (match s.cfg.framing with
         | .deliver => deposit b { u with
             err := { s.err with framing := true }, outputs := .signal .framingError :: s.outputs }
         | .discard => { u with
             err := { s.err with framing := true }, outputs := .signal .framingError :: s.outputs })

/-! ## The Transmit Bit-Driver -/

/-- R140: `TXSTART` performed inside another operation withdraws the queued byte, puts the start bit on the pin
and starts the channel; with nothing queued, or during a frame, it changes nothing. -/
def Obligations.TxstartWithdrawsByte : Prop :=
  (∀ (s : State) (b : Byte), s.nesting = .inside → s.tx.phase = .idle →
    s.mb.transmitBusy = true → s.mb.transmitByte = some b → s.tm.tx.armed = false →
    exec .txstart s = .next { s with
      tx := { phase := .sendingStart, pendingByte := b, bitsSent := 0 }
      pin := { s.pin with tx := false }
      mb := { s.mb with transmitByte := none, transmitBusy := false }
      tm := { s.tm with tx := { armed := true, oneShot := false, count := ticksOf s.cfg.bitPeriod,
                                period := ticksOf s.cfg.bitPeriod } } }) ∧
  (∀ s : State, s.nesting = .inside → (s.tx.phase ≠ .idle ∨ s.mb.transmitBusy = false) →
    exec .txstart s = .next s) ∧
  decode 0x70000000#32 = .ok .txstart

/-- R142, R143, R144: firings 1 to 9 put the data bits, least significant first, and then the stop bit on the
pin; the byte is kept, the channel reloads. -/
def Obligations.TxtickSendsNextBit : Prop :=
  ∀ (s u : State), Running s →
    u = { s with
      tm := { s.tm with tx := { armed := true, oneShot := false, count := ticksOf s.cfg.bitPeriod,
                                period := ticksOf s.cfg.bitPeriod } } } →
    (s.tx.phase = .sendingStart → exec .txtick s = .next { u with
      pin := { s.pin with tx := s.tx.pendingByte.getLsbD 0 }
      tx := { phase := .sendingBit 0, pendingByte := s.tx.pendingByte, bitsSent := 1 } }) ∧
    (∀ (i : Fin 8) (h : i.val < 7), s.tx.phase = .sendingBit i → exec .txtick s = .next { u with
      pin := { s.pin with tx := s.tx.pendingByte.getLsbD (i.val + 1) }
      tx := { phase := .sendingBit ⟨i.val + 1, Nat.succ_lt_succ h⟩, pendingByte := s.tx.pendingByte
              bitsSent := BitVec.ofNat 4 (i.val + 2) } }) ∧
    (s.tx.phase = .sendingBit 7 → exec .txtick s = .next { u with
      pin := { s.pin with tx := true }
      tx := { phase := .sendingStop, pendingByte := s.tx.pendingByte, bitsSent := 8 } })

/-- R146: firing 10 ends the frame and, if a byte is queued, starts the next one at once; `Idle` is not visible
between the two. -/
def Obligations.StopBitEndsOrRestarts : Prop :=
  ∀ s : State, Running s → s.tx.phase = .sendingStop →
    (s.mb.transmitBusy = false → exec .txtick s = .next { s with
      tx := { phase := .idle, pendingByte := 0, bitsSent := 0 }
      pin := { s.pin with tx := true }
      tm := { s.tm with tx := { armed := false, oneShot := false, count := 0, period := s.tm.tx.period } } }) ∧
    (∀ b : Byte, s.mb.transmitBusy = true → s.mb.transmitByte = some b → exec .txtick s = .next { s with
      tx := { phase := .sendingStart, pendingByte := b, bitsSent := 0 }
      pin := { s.pin with tx := false }
      mb := { s.mb with transmitByte := none, transmitBusy := false }
      tm := { s.tm with tx := { armed := true, oneShot := false, count := ticksOf s.cfg.bitPeriod,
                                period := ticksOf s.cfg.bitPeriod } } })

/-- R147: the complete transition table of `tx.phase` with what the pin becomes; `CLK` performs the operations
of the table and has no row of its own. -/
def Obligations.TransmitTransitionTable : Prop :=
  ∀ (i : Instr) (s : State),
    (∀ t : State, exec i s = .next t → (∀ l, i ≠ .clk l) →
      (t.tx.phase, t.pin.tx) =
        match i, s.tx.phase with
        | .init, _ => (.idle, true)
        | .putc _, .idle => if s.mb.transmitBusy then (.idle, s.pin.tx) else (.sendingStart, false)
        | .txstart, .idle => if s.mb.transmitBusy then (.sendingStart, false) else (.idle, s.pin.tx)
        | .txtick, .sendingStart => (.sendingBit 0, s.tx.pendingByte.getLsbD 0)
        | .txtick, .sendingBit j =>
          if h : j.val < 7 then
            (.sendingBit ⟨j.val + 1, Nat.succ_lt_succ h⟩, s.tx.pendingByte.getLsbD (j.val + 1))
          else (.sendingStop, true)
        | .txtick, .sendingStop =>
          if s.mb.transmitBusy then (.sendingStart, false) else (.idle, s.pin.tx)
        | _, p => (p, s.pin.tx)) ∧
    (Running s → s.tx.phase = .sendingStop → s.pin.tx = true) ∧
    (Running s → s.tx.phase = .idle → exec .txtick s = .refused .spuriousTick)

/-- R148, R81: from rest, `PUTC b` and `k` firings put cell `k` of the frame of `b` on the pin, and the tenth
firing ends the frame with the line high; no error condition is raised on the way; and nothing but a
firing moves a frame that is on the wire: there is no abort. -/
def Obligations.TransmittedWaveform : Prop :=
  ∀ (s : State) (b : Byte), Running s → s.tx.phase = .idle →
    (∀ k : Nat, k ≤ 9 → ∃ t, runOps (.putc b :: txRun k) s = .next t ∧
      t.pin.tx = frameCell b k ∧ t.tx.pendingByte = b ∧ t.tx.phase ≠ .idle ∧
      t.outputs = .putc true :: s.outputs ∧ t.err = s.err) ∧
    (∃ t, runOps (.putc b :: txRun 10) s = .next t ∧
      t.pin.tx = true ∧ t.tx.phase = .idle ∧ t.tm.tx.armed = false ∧
      t.outputs = .putc true :: s.outputs ∧ t.err = s.err) ∧
    (∀ (i : Instr) (u t : State), Running u → u.tx.phase ≠ .idle → i ≠ .txtick → (∀ l, i ≠ .clk l) →
      exec i u = .next t → t.tx = u.tx ∧ t.pin.tx = u.pin.tx)

/-- R83, R146: two bytes accepted back to back are on the wire one after the other with no idle cell between,
and then the line is idle. -/
def Obligations.BackToBackFrames : Prop :=
  ∀ (s : State) (b b' : Byte), Running s → s.tx.phase = .idle →
    (∀ k : Nat, k ≤ 9 → ∃ t, runOps (.putc b :: .putc b' :: txRun k) s = .next t ∧
      t.pin.tx = frameCell b k) ∧
    (∀ k : Nat, k ≤ 9 → ∃ t, runOps (.putc b :: .putc b' :: txRun (10 + k)) s = .next t ∧
      t.pin.tx = frameCell b' k) ∧
    (∃ t, runOps (.putc b :: .putc b' :: txRun 20) s = .next t ∧
      t.pin.tx = true ∧ t.tx.phase = .idle ∧ t.mb.transmitBusy = false ∧ t.tm.tx.armed = false)

/-! ## The time base -/

/-- R180: a tick in which every armed channel has more than one tick to go and no falling edge is seen counts the armed channels down and
remembers the level; before `INIT` a tick changes nothing. -/
def Obligations.QuietTickCountsDown : Prop :=
  (∀ (s : State) (l : Level), s.ctl.initialised = false → exec (.clk l) s = .next s) ∧
  (∀ (s : State) (l : Level), s.ctl.initialised = true →
    (s.tm.tx.armed = true → 1 < s.tm.tx.count.toNat) → (s.tm.rx.armed = true → 1 < s.tm.rx.count.toNat) →
    ¬(s.pin.rxPrev = true ∧ l = false) →
    exec (.clk l) s = .next { s with
      tm := { tx := { s.tm.tx with count := if s.tm.tx.armed then s.tm.tx.count - 1 else s.tm.tx.count }
              rx := { s.tm.rx with count := if s.tm.rx.armed then s.tm.rx.count - 1 else s.tm.rx.count } }
      pin := { s.pin with rxPrev := l } })

/-- R180: before `INIT` a tick changes nothing; after it a tick is never refused: it counts the armed channels
down and performs `TXTICK` when the transmit count reaches 0, then `RXTICK l` when the receive count
reaches 0, then `EDGE` on a falling edge, in that order (R181), and remembers the level. -/
def Obligations.TickPerformsTheOperationsInOrder : Prop :=
  (∀ (s : State) (l : Level), s.ctl.initialised = false → exec (.clk l) s = .next s) ∧
  (∀ l : Level, (fields (encode (.clk l))).opc = 0xB#4 ∧ (fields (encode (.clk l))).lvl = l) ∧
  ∀ (s : State) (l : Level), Running s → ∃ t, exec (.clk l) s = .next t ∧
    runOps
      ((if s.tm.tx.armed && decide (s.tm.tx.count = 1) then [Instr.txtick] else []) ++
       (if s.tm.rx.armed && decide (s.tm.rx.count = 1) then [Instr.rxtick l] else []) ++
       (if s.pin.rxPrev && !l then [Instr.edge] else []))
      { s with tm :=
        { tx := { s.tm.tx with count := if s.tm.tx.armed then s.tm.tx.count - 1 else s.tm.tx.count }
          rx := { s.tm.rx with count := if s.tm.rx.armed then s.tm.rx.count - 1 else s.tm.rx.count } } } =
      .next { t with pin := { t.pin with rxPrev := s.pin.rxPrev } } ∧
    t.pin.rxPrev = l

/-- R182: the edge detector starts a reception exactly on a falling edge in an idle receiver, and remembers the
level of every tick; after `INIT` the first low tick is no edge. -/
def Obligations.EdgeDetector : Prop :=
  (∀ (s t : State) (l : Level), Running s → exec (.clk l) s = .next t → t.pin.rxPrev = l) ∧
  (∀ (s t : State) (l : Level), Running s → s.rx.phase = .idle → exec (.clk l) s = .next t →
    (t.rx.phase = .startDetected ↔ s.pin.rxPrev = true ∧ l = false) ∧
    (t.rx.phase ≠ .startDetected → t.rx = s.rx)) ∧
  (∀ s t u : State, PoweredOn s → exec .init s = .next t → exec (.clk false) t = .next u →
    u.rx.phase = .idle)

/-- R181 (a): a stop bit sampled low in the tick of a falling edge ends the frame with a framing error and
starts a new one in the same tick. -/
def Obligations.StopSampleAndEdgeInOneTick : Prop :=
  ∀ s : State, Running s → s.rx.phase = .stopExpected → s.tm.rx.count = 1 → s.pin.rxPrev = true →
    ∃ t, exec (.clk false) s = .next t ∧ t.rx.phase = .startDetected ∧ t.err.framing = true ∧
      t.rx.shiftRegister = 0 ∧ t.rx.bitsReceived = 0 ∧ t.pin.rxPrev = false ∧
      t.tm.rx = { armed := true, oneShot := true, count := ticksOf s.cfg.halfBit,
                  period := ticksOf s.cfg.bitPeriod }

/-- R181 (b), R217: a transmit firing and a receive firing do not interact; performed in either order they give
the same state. -/
def Obligations.FiringsCommute : Prop :=
  ∀ (s : State) (l : Level), Running s → s.tm.rx.armed = true → s.tm.tx.armed = true →
    runOps [.txtick, .rxtick l] s = runOps [.rxtick l, .txtick] s

/-- R180 corner case 1: a transmit channel with `n` ticks to go is still counting after `k < n` ticks, in the
same phase and with the same pin, whatever the line does, and the `n`th tick performs its firing. -/
def Obligations.ChannelFiresAfterItsCount : Prop :=
  ∀ (s : State) (line : Nat → Level) (n : Nat), Running s → s.tm.tx.armed = true →
    s.tm.tx.count.toNat = n →
    (∀ k : Nat, k < n → ∃ t, ticks line k s = .next t ∧ Running t ∧ t.tx = s.tx ∧ t.pin.tx = s.pin.tx ∧
      t.tm.tx.armed = true ∧ t.tm.tx.count.toNat = n - k ∧ t.mb.transmitByte = s.mb.transmitByte) ∧
    (∃ t u, ticks line n s = .next t ∧ exec .txtick s = .next u ∧ SameTransmitSide u t)

/-- R185, transmit: after `PUTC b` from rest, cell `k` of the frame is on the pin for exactly `BITPERIOD` ticks,
and the driver is back at rest in tick `10 * BITPERIOD`, whatever the input line does. -/
def Obligations.TimedTransmission : Prop :=
  ∀ (s u : State) (b : Byte) (line : Nat → Level), Running s → s.tx.phase = .idle →
    exec (.putc b) s = .next u →
    (∀ k n : Nat, k ≤ 9 → k * s.cfg.bitPeriod ≤ n → n < (k + 1) * s.cfg.bitPeriod →
      ∃ t, ticks line n u = .next t ∧ t.pin.tx = frameCell b k ∧ t.tx.phase ≠ .idle) ∧
    (∃ t, ticks line (10 * s.cfg.bitPeriod) u = .next t ∧ t.pin.tx = true ∧ t.tx.phase = .idle ∧
      t.tm.tx.armed = false)

/-- R185, receive, and R123: if the first low tick is tick 0, firing `k` samples the line in tick
`HALFBIT + (k - 1) * BITPERIOD`, and a valid frame's byte is in the empty mailbox from the tenth
firing on and not before, whatever the transmitter does. -/
def Obligations.TimedReception : Prop :=
  ∀ (s : State) (line : Nat → Level), Running s → s.rx.phase = .idle → s.pin.rxPrev = true →
    s.mb.receivedReady = false → line 0 = false →
    line s.cfg.halfBit = false → line (s.cfg.halfBit + 9 * s.cfg.bitPeriod) = true →
    (∀ n : Nat, n ≤ s.cfg.halfBit + 9 * s.cfg.bitPeriod →
      ∃ t, ticks line n s = .next t ∧ t.mb.receivedReady = false) ∧
    (∃ t, ticks line (s.cfg.halfBit + 9 * s.cfg.bitPeriod + 1) s = .next t ∧
      t.mb.receivedReady = true ∧
      t.mb.receivedByte =
        some (byteOfSamples (fun k => line (s.cfg.halfBit + (k - 1) * s.cfg.bitPeriod))) ∧
      t.rx.phase = .idle ∧ t.err = s.err)

/-- R184: with the output pin wired to the input pin, the byte given to `PUTC` at rest is in the mailbox from
tick `1 + HALFBIT + 9 * BITPERIOD` on and not before, with no error flag, and the transmitter is back
at rest in tick `10 * BITPERIOD`: for every byte and every valid parameter set. -/
def Obligations.LoopbackRoundTrip : Prop :=
  ∀ (s u : State) (b : Byte), Running s → s.tx.phase = .idle → s.rx.phase = .idle →
    s.pin.rxPrev = true → s.mb.receivedReady = false → exec (.putc b) s = .next u →
    (∀ n : Nat, n ≤ s.cfg.halfBit + 9 * s.cfg.bitPeriod →
      ∃ t, loopback n u = .next t ∧ t.mb.receivedReady = false) ∧
    (∃ t, loopback (1 + s.cfg.halfBit + 9 * s.cfg.bitPeriod) u = .next t ∧
      t.mb.receivedReady = true ∧ t.mb.receivedByte = some b ∧ t.err = s.err) ∧
    (∃ t, loopback (10 * s.cfg.bitPeriod) u = .next t ∧ t.tx.phase = .idle ∧ t.pin.tx = true ∧
      t.mb.receivedByte = some b)

/-! ## Invariants and rules about the whole machine -/

/-- R38, R240: the state after power-on meets the invariant, with the four values the spec fixes. -/
def Obligations.PowerOnMeetsInvariant : Prop :=
  Inv State.reset ∧ State.reset.ctl.initialised = false ∧ State.reset.ctl.gie = false ∧
    State.reset.tm.rx.armed = false ∧ State.reset.tm.tx.armed = false

/-- R37: every step keeps the invariants, from every state that meets them. -/
def Obligations.StepKeepsInvariant : Prop :=
  ∀ s t : State, Inv s → step s = .next t → Inv t

/-- R37, R165: `INIT` establishes the invariants of a running block from any power-on state, and the
conditions of R255 for a quiescent end. -/
def Obligations.InitEstablishesInvariant : Prop :=
  ∀ s : State, PoweredOn s → ∃ t, exec .init s = .next t ∧ Running t ∧ quiescent t = true

/-- R240: before `INIT` nothing can happen inside the block: an operation that completes and is not `INIT`
changes nothing. -/
def Obligations.NothingHappensBeforeInit : Prop :=
  ∀ (s t : State) (i : Instr), PoweredOn s → i ≠ .init → exec i s = .next t → t = s

/-- R206: the refusals an operation can meet at top level, each exactly when its rule says so; in particular
`EDGE` and `CLK` are never refused, and neither `BadInterval` nor `Unreachable` is ever met. -/
def Obligations.RefusalsExactly : Prop :=
  ∀ (s : State) (i : Instr) (e : Refusal), Inv s →
    (exec i s = .refused e ↔
      (e = .notInitialised ∧ s.ctl.initialised = false ∧
        (i = .getc ∨ (∃ b, i = .putc b) ∨ (∃ l, i = .rxtick l) ∨ i = .txtick)) ∨
      (e = .reInit ∧ s.ctl.initialised = true ∧ i = .init) ∨
      (e = .spuriousTick ∧ s.ctl.initialised = true ∧
        ((s.rx.phase = .idle ∧ ∃ l, i = .rxtick l) ∨ (s.tx.phase = .idle ∧ i = .txtick))) ∨
      (e = .internalOnly ∧ i.context = .internal))

/-- R121, R141, R180, R120: where the interrupt events and the tick complete: a firing on its armed channel, an
edge and a tick always. -/
def Obligations.InterruptEventsComplete : Prop :=
  ∀ (s : State) (l : Level), Running s →
    (s.rx.phase ≠ .idle → ∃ t, exec (.rxtick l) s = .next t) ∧
    (s.tx.phase ≠ .idle → ∃ t, exec .txtick s = .next t) ∧
    (∃ t, exec .edge s = .next t) ∧
    (∃ t, exec (.clk l) s = .next t)

/-- R7, R29, R34: no operation changes the parameters, what is delivered or how operations are nested; only
`INIT` writes the control bits; the previous level is written only by `CLK` and `INIT`; the error flags
only by a receive firing and `INIT`; `GETC` writes none of the sequencers, the timer, the pins and the error
flags; a `PUTC` that is turned away leaves the whole block, and a `TXSTART` with nothing to do, as it
was. -/
def Obligations.OwnershipOfState : Prop :=
  ∀ (i : Instr) (s t : State), exec i s = .next t →
    t.cfg = s.cfg ∧ t.input = s.input ∧ t.nesting = s.nesting ∧
    (t.ctl ≠ s.ctl → i = .init) ∧
    (t.pin.rxPrev ≠ s.pin.rxPrev → i = .init ∨ ∃ l, i = .clk l) ∧
    (t.err ≠ s.err → i = .init ∨ ∃ l, i = .rxtick l ∨ i = .clk l) ∧
    (i = .getc → t.rx = s.rx ∧ t.tx = s.tx ∧ t.tm = s.tm ∧ t.pin = s.pin ∧ t.err = s.err) ∧
    (∀ b : Byte, i = .putc b → s.mb.transmitBusy = true →
      t.rx = s.rx ∧ t.tx = s.tx ∧ t.mb = s.mb ∧ t.tm = s.tm ∧ t.pin = s.pin ∧ t.err = s.err) ∧
    (i = .txstart → s.tx.phase ≠ .idle ∨ s.mb.transmitBusy = false → t = s)

/-- R67: which operations reach which slot of the mailbox; no other operation touches it. -/
def Obligations.MailboxReach : Prop :=
  ∀ (i : Instr) (s t : State), exec i s = .next t →
    (t.mb.receivedByte ≠ s.mb.receivedByte ∨ t.mb.receivedReady ≠ s.mb.receivedReady →
      i = .init ∨ i = .getc ∨ ∃ l, i = .rxtick l ∨ i = .clk l) ∧
    (t.mb.transmitByte ≠ s.mb.transmitByte ∨ t.mb.transmitBusy ≠ s.mb.transmitBusy →
      i = .init ∨ i = .txstart ∨ i = .txtick ∨ ∃ x : Byte × Level, i = .putc x.1 ∨ i = .clk x.2)

/-- R33: the error flags are sticky, cleared only by `INIT`; `err.framing` is set by a low stop sample and
`err.overrun` by a deposit that finds the slot full. -/
def Obligations.ErrorFlagsSticky : Prop :=
  ∀ (i : Instr) (s t : State), exec i s = .next t → i ≠ .init →
    (s.err.framing = true → t.err.framing = true) ∧
    (s.err.overrun = true → t.err.overrun = true) ∧
    (s.err.framing = false → t.err.framing = true →
      s.rx.phase = .stopExpected ∧ (i = .rxtick false ∨ i = .clk false)) ∧
    (s.err.overrun = false → t.err.overrun = true →
      s.rx.phase = .stopExpected ∧ s.mb.receivedReady = true ∧ ∃ l, i = .rxtick l ∨ i = .clk l)

/-- R33, R36: no operation reads the error flags, what has been shown before, or the caller's byte. Whatever
the three hold, an operation that completes shows the same new outputs, raises the same flags beside those
already set (`INIT` clears both), leaves the caller's byte, and ends in the same state but for the
three; and one that is refused is refused for the same reason. -/
def Obligations.DiagnosticStateReadByNoOperation : Prop :=
  ∀ (i : Instr) (s : State),
    (∀ t, exec i s = .next t → ∃ (new : List Output) (raised : ErrFlags),
      ∀ (e : ErrFlags) (o : List Output) (b : Byte),
        exec i { s with err := e, outputs := o, callerByte := b } = .next { t with
          err := if i = .init then { framing := false, overrun := false }
                 else { framing := e.framing || raised.framing, overrun := e.overrun || raised.overrun }
          outputs := new ++ o
          callerByte := b }) ∧
    (∀ r, exec i s = .refused r → ∀ (e : ErrFlags) (o : List Output) (b : Byte),
      exec i { s with err := e, outputs := o, callerByte := b } = .refused r)

/-- R29, R40, V55: the two sequencers share no state: the receive operations leave the transmit side, and the
transmit operations the receive side, as it was; and no operation of a running block writes the caller's
byte or draws a free byte. -/
def Obligations.DirectionsIndependent : Prop :=
  ∀ (i : Instr) (s t : State), exec i s = .next t →
    ((i = .edge ∨ i = .getc ∨ ∃ l, i = .rxtick l) → SameTransmitSide s t) ∧
    ((i = .txtick ∨ i = .txstart ∨ ∃ b, i = .putc b) → SameReceiveSide s t) ∧
    (Running s → t.callerByte = s.callerByte ∧ t.draws = s.draws)

/-- R203, R73: under `DropNew` a byte waiting in the receive slot stays there until `GETC` takes it. -/
def Obligations.WaitingByteKeptUnderDropNew : Prop :=
  ∀ (i : Instr) (s t : State), exec i s = .next t → i ≠ .init → i ≠ .getc →
    s.cfg.overrun = .dropNew → s.mb.receivedReady = true →
      t.mb.receivedReady = true ∧ t.mb.receivedByte = s.mb.receivedByte

/-- R219, R35, R107: the block is power-idle exactly when both sequencers are idle, and only a falling edge or a
`PUTC` wakes it. -/
def Obligations.PowerIdleAndWake : Prop :=
  (∀ s : State, Running s → (powerIdle s = true ↔ s.rx.phase = .idle ∧ s.tx.phase = .idle)) ∧
  (∀ (i : Instr) (s t : State), Running s → exec i s = .next t → powerIdle s = true →
    powerIdle t = false →
      i = .edge ∨ (∃ b, i = .putc b) ∨ (i = .clk false ∧ s.pin.rxPrev = true))

/-- 90_conflicts.md C6 and S3: with the receiver idle and the slot empty, no sequence of `GETC`, `PUTC b`,
`TXTICK` and `CLK 1` makes a byte appear: the receiver stays idle, the slot empty, and every `GETC`
of the sequence answers `(false, -)`. -/
def Obligations.NoByteWithoutAnEdge : Prop :=
  ∀ (ops : List Instr) (s t : State), Running s → s.rx.phase = .idle → s.mb.receivedReady = false →
    (∀ i ∈ ops, i = .getc ∨ i = .txtick ∨ i = .clk true ∨ ∃ b, i = .putc b) →
    runOps ops s = .next t →
      t.rx.phase = .idle ∧ t.mb.receivedReady = false ∧
      (∃ new : List Output, t.outputs = new ++ s.outputs ∧ ∀ b : Byte, .getc (some b) ∉ new)
end

