-- ==== Sys2Proof/Laws/State.lean ====
section
/-! SUPPORT. What each named update of the state writes and what it leaves, one lemma a field. -/

namespace Sys2Proof.Machine

variable (s : State)

@[simp] theorem setReceivedReady_cfg (v : Bool) : (setReceivedReady v s).cfg = s.cfg := rfl
@[simp] theorem setReceivedReady_rx (v : Bool) : (setReceivedReady v s).rx = s.rx := rfl
@[simp] theorem setReceivedReady_tx (v : Bool) : (setReceivedReady v s).tx = s.tx := rfl
@[simp] theorem setReceivedReady_mb (v : Bool) : (setReceivedReady v s).mb = { s.mb with receivedReady := v } := rfl
@[simp] theorem setReceivedReady_tm (v : Bool) : (setReceivedReady v s).tm = s.tm := rfl
@[simp] theorem setReceivedReady_pin (v : Bool) : (setReceivedReady v s).pin = s.pin := rfl
@[simp] theorem setReceivedReady_err (v : Bool) : (setReceivedReady v s).err = s.err := rfl
@[simp] theorem setReceivedReady_ctl (v : Bool) : (setReceivedReady v s).ctl = s.ctl := rfl
@[simp] theorem setReceivedReady_nesting (v : Bool) : (setReceivedReady v s).nesting = s.nesting := rfl
@[simp] theorem setReceivedReady_input (v : Bool) : (setReceivedReady v s).input = s.input := rfl
@[simp] theorem setReceivedReady_outputs (v : Bool) : (setReceivedReady v s).outputs = s.outputs := rfl
@[simp] theorem setReceivedReady_callerByte (v : Bool) : (setReceivedReady v s).callerByte = s.callerByte := rfl
@[simp] theorem setReceivedReady_draws (v : Bool) : (setReceivedReady v s).draws = s.draws := rfl

@[simp] theorem setTransmitBusy_cfg (v : Bool) : (setTransmitBusy v s).cfg = s.cfg := rfl
@[simp] theorem setTransmitBusy_rx (v : Bool) : (setTransmitBusy v s).rx = s.rx := rfl
@[simp] theorem setTransmitBusy_tx (v : Bool) : (setTransmitBusy v s).tx = s.tx := rfl
@[simp] theorem setTransmitBusy_mb (v : Bool) : (setTransmitBusy v s).mb = { s.mb with transmitBusy := v } := rfl
@[simp] theorem setTransmitBusy_tm (v : Bool) : (setTransmitBusy v s).tm = s.tm := rfl
@[simp] theorem setTransmitBusy_pin (v : Bool) : (setTransmitBusy v s).pin = s.pin := rfl
@[simp] theorem setTransmitBusy_err (v : Bool) : (setTransmitBusy v s).err = s.err := rfl
@[simp] theorem setTransmitBusy_ctl (v : Bool) : (setTransmitBusy v s).ctl = s.ctl := rfl
@[simp] theorem setTransmitBusy_nesting (v : Bool) : (setTransmitBusy v s).nesting = s.nesting := rfl
@[simp] theorem setTransmitBusy_input (v : Bool) : (setTransmitBusy v s).input = s.input := rfl
@[simp] theorem setTransmitBusy_outputs (v : Bool) : (setTransmitBusy v s).outputs = s.outputs := rfl
@[simp] theorem setTransmitBusy_callerByte (v : Bool) : (setTransmitBusy v s).callerByte = s.callerByte := rfl
@[simp] theorem setTransmitBusy_draws (v : Bool) : (setTransmitBusy v s).draws = s.draws := rfl

@[simp] theorem setFraming_cfg : (setFraming s).cfg = s.cfg := rfl
@[simp] theorem setFraming_rx : (setFraming s).rx = s.rx := rfl
@[simp] theorem setFraming_tx : (setFraming s).tx = s.tx := rfl
@[simp] theorem setFraming_mb : (setFraming s).mb = s.mb := rfl
@[simp] theorem setFraming_tm : (setFraming s).tm = s.tm := rfl
@[simp] theorem setFraming_pin : (setFraming s).pin = s.pin := rfl
@[simp] theorem setFraming_err : (setFraming s).err = { s.err with framing := true } := rfl
@[simp] theorem setFraming_ctl : (setFraming s).ctl = s.ctl := rfl
@[simp] theorem setFraming_nesting : (setFraming s).nesting = s.nesting := rfl
@[simp] theorem setFraming_input : (setFraming s).input = s.input := rfl
@[simp] theorem setFraming_outputs : (setFraming s).outputs = s.outputs := rfl
@[simp] theorem setFraming_callerByte : (setFraming s).callerByte = s.callerByte := rfl
@[simp] theorem setFraming_draws : (setFraming s).draws = s.draws := rfl

@[simp] theorem setOverrun_cfg : (setOverrun s).cfg = s.cfg := rfl
@[simp] theorem setOverrun_rx : (setOverrun s).rx = s.rx := rfl
@[simp] theorem setOverrun_tx : (setOverrun s).tx = s.tx := rfl
@[simp] theorem setOverrun_mb : (setOverrun s).mb = s.mb := rfl
@[simp] theorem setOverrun_tm : (setOverrun s).tm = s.tm := rfl
@[simp] theorem setOverrun_pin : (setOverrun s).pin = s.pin := rfl
@[simp] theorem setOverrun_err : (setOverrun s).err = { s.err with overrun := true } := rfl
@[simp] theorem setOverrun_ctl : (setOverrun s).ctl = s.ctl := rfl
@[simp] theorem setOverrun_nesting : (setOverrun s).nesting = s.nesting := rfl
@[simp] theorem setOverrun_input : (setOverrun s).input = s.input := rfl
@[simp] theorem setOverrun_outputs : (setOverrun s).outputs = s.outputs := rfl
@[simp] theorem setOverrun_callerByte : (setOverrun s).callerByte = s.callerByte := rfl
@[simp] theorem setOverrun_draws : (setOverrun s).draws = s.draws := rfl

@[simp] theorem setRx_cfg (v : RxState) : (setRx v s).cfg = s.cfg := rfl
@[simp] theorem setRx_rx (v : RxState) : (setRx v s).rx = v := rfl
@[simp] theorem setRx_tx (v : RxState) : (setRx v s).tx = s.tx := rfl
@[simp] theorem setRx_mb (v : RxState) : (setRx v s).mb = s.mb := rfl
@[simp] theorem setRx_tm (v : RxState) : (setRx v s).tm = s.tm := rfl
@[simp] theorem setRx_pin (v : RxState) : (setRx v s).pin = s.pin := rfl
@[simp] theorem setRx_err (v : RxState) : (setRx v s).err = s.err := rfl
@[simp] theorem setRx_ctl (v : RxState) : (setRx v s).ctl = s.ctl := rfl
@[simp] theorem setRx_nesting (v : RxState) : (setRx v s).nesting = s.nesting := rfl
@[simp] theorem setRx_input (v : RxState) : (setRx v s).input = s.input := rfl
@[simp] theorem setRx_outputs (v : RxState) : (setRx v s).outputs = s.outputs := rfl
@[simp] theorem setRx_callerByte (v : RxState) : (setRx v s).callerByte = s.callerByte := rfl
@[simp] theorem setRx_draws (v : RxState) : (setRx v s).draws = s.draws := rfl

@[simp] theorem setTx_cfg (v : TxState) : (setTx v s).cfg = s.cfg := rfl
@[simp] theorem setTx_rx (v : TxState) : (setTx v s).rx = s.rx := rfl
@[simp] theorem setTx_tx (v : TxState) : (setTx v s).tx = v := rfl
@[simp] theorem setTx_mb (v : TxState) : (setTx v s).mb = s.mb := rfl
@[simp] theorem setTx_tm (v : TxState) : (setTx v s).tm = s.tm := rfl
@[simp] theorem setTx_pin (v : TxState) : (setTx v s).pin = s.pin := rfl
@[simp] theorem setTx_err (v : TxState) : (setTx v s).err = s.err := rfl
@[simp] theorem setTx_ctl (v : TxState) : (setTx v s).ctl = s.ctl := rfl
@[simp] theorem setTx_nesting (v : TxState) : (setTx v s).nesting = s.nesting := rfl
@[simp] theorem setTx_input (v : TxState) : (setTx v s).input = s.input := rfl
@[simp] theorem setTx_outputs (v : TxState) : (setTx v s).outputs = s.outputs := rfl
@[simp] theorem setTx_callerByte (v : TxState) : (setTx v s).callerByte = s.callerByte := rfl
@[simp] theorem setTx_draws (v : TxState) : (setTx v s).draws = s.draws := rfl

@[simp] theorem setPinTx_cfg (l : Level) : (setPinTx l s).cfg = s.cfg := rfl
@[simp] theorem setPinTx_rx (l : Level) : (setPinTx l s).rx = s.rx := rfl
@[simp] theorem setPinTx_tx (l : Level) : (setPinTx l s).tx = s.tx := rfl
@[simp] theorem setPinTx_mb (l : Level) : (setPinTx l s).mb = s.mb := rfl
@[simp] theorem setPinTx_tm (l : Level) : (setPinTx l s).tm = s.tm := rfl
@[simp] theorem setPinTx_pin (l : Level) : (setPinTx l s).pin = { s.pin with tx := l } := rfl
@[simp] theorem setPinTx_err (l : Level) : (setPinTx l s).err = s.err := rfl
@[simp] theorem setPinTx_ctl (l : Level) : (setPinTx l s).ctl = s.ctl := rfl
@[simp] theorem setPinTx_nesting (l : Level) : (setPinTx l s).nesting = s.nesting := rfl
@[simp] theorem setPinTx_input (l : Level) : (setPinTx l s).input = s.input := rfl
@[simp] theorem setPinTx_outputs (l : Level) : (setPinTx l s).outputs = s.outputs := rfl
@[simp] theorem setPinTx_callerByte (l : Level) : (setPinTx l s).callerByte = s.callerByte := rfl
@[simp] theorem setPinTx_draws (l : Level) : (setPinTx l s).draws = s.draws := rfl

@[simp] theorem setRxPrev_cfg (l : Level) : (setRxPrev l s).cfg = s.cfg := rfl
@[simp] theorem setRxPrev_rx (l : Level) : (setRxPrev l s).rx = s.rx := rfl
@[simp] theorem setRxPrev_tx (l : Level) : (setRxPrev l s).tx = s.tx := rfl
@[simp] theorem setRxPrev_mb (l : Level) : (setRxPrev l s).mb = s.mb := rfl
@[simp] theorem setRxPrev_tm (l : Level) : (setRxPrev l s).tm = s.tm := rfl
@[simp] theorem setRxPrev_pin (l : Level) : (setRxPrev l s).pin = { s.pin with rxPrev := l } := rfl
@[simp] theorem setRxPrev_err (l : Level) : (setRxPrev l s).err = s.err := rfl
@[simp] theorem setRxPrev_ctl (l : Level) : (setRxPrev l s).ctl = s.ctl := rfl
@[simp] theorem setRxPrev_nesting (l : Level) : (setRxPrev l s).nesting = s.nesting := rfl
@[simp] theorem setRxPrev_input (l : Level) : (setRxPrev l s).input = s.input := rfl
@[simp] theorem setRxPrev_outputs (l : Level) : (setRxPrev l s).outputs = s.outputs := rfl
@[simp] theorem setRxPrev_callerByte (l : Level) : (setRxPrev l s).callerByte = s.callerByte := rfl
@[simp] theorem setRxPrev_draws (l : Level) : (setRxPrev l s).draws = s.draws := rfl

@[simp] theorem emit_cfg (o : Output) : (emit o s).cfg = s.cfg := rfl
@[simp] theorem emit_rx (o : Output) : (emit o s).rx = s.rx := rfl
@[simp] theorem emit_tx (o : Output) : (emit o s).tx = s.tx := rfl
@[simp] theorem emit_mb (o : Output) : (emit o s).mb = s.mb := rfl
@[simp] theorem emit_tm (o : Output) : (emit o s).tm = s.tm := rfl
@[simp] theorem emit_pin (o : Output) : (emit o s).pin = s.pin := rfl
@[simp] theorem emit_err (o : Output) : (emit o s).err = s.err := rfl
@[simp] theorem emit_ctl (o : Output) : (emit o s).ctl = s.ctl := rfl
@[simp] theorem emit_nesting (o : Output) : (emit o s).nesting = s.nesting := rfl
@[simp] theorem emit_input (o : Output) : (emit o s).input = s.input := rfl
@[simp] theorem emit_outputs (o : Output) : (emit o s).outputs = o :: s.outputs := rfl
@[simp] theorem emit_callerByte (o : Output) : (emit o s).callerByte = s.callerByte := rfl
@[simp] theorem emit_draws (o : Output) : (emit o s).draws = s.draws := rfl

@[simp] theorem signal_cfg (c : Condition) : (signal c s).cfg = s.cfg := rfl
@[simp] theorem signal_rx (c : Condition) : (signal c s).rx = s.rx := rfl
@[simp] theorem signal_tx (c : Condition) : (signal c s).tx = s.tx := rfl
@[simp] theorem signal_mb (c : Condition) : (signal c s).mb = s.mb := rfl
@[simp] theorem signal_tm (c : Condition) : (signal c s).tm = s.tm := rfl
@[simp] theorem signal_pin (c : Condition) : (signal c s).pin = s.pin := rfl
@[simp] theorem signal_err (c : Condition) : (signal c s).err = s.err := rfl
@[simp] theorem signal_ctl (c : Condition) : (signal c s).ctl = s.ctl := rfl
@[simp] theorem signal_nesting (c : Condition) : (signal c s).nesting = s.nesting := rfl
@[simp] theorem signal_input (c : Condition) : (signal c s).input = s.input := rfl
@[simp] theorem signal_outputs (c : Condition) : (signal c s).outputs = .signal c :: s.outputs := rfl
@[simp] theorem signal_callerByte (c : Condition) : (signal c s).callerByte = s.callerByte := rfl
@[simp] theorem signal_draws (c : Condition) : (signal c s).draws = s.draws := rfl

@[simp] theorem setCallerByte_cfg (b : Byte) : (setCallerByte b s).cfg = s.cfg := rfl
@[simp] theorem setCallerByte_rx (b : Byte) : (setCallerByte b s).rx = s.rx := rfl
@[simp] theorem setCallerByte_tx (b : Byte) : (setCallerByte b s).tx = s.tx := rfl
@[simp] theorem setCallerByte_mb (b : Byte) : (setCallerByte b s).mb = s.mb := rfl
@[simp] theorem setCallerByte_tm (b : Byte) : (setCallerByte b s).tm = s.tm := rfl
@[simp] theorem setCallerByte_pin (b : Byte) : (setCallerByte b s).pin = s.pin := rfl
@[simp] theorem setCallerByte_err (b : Byte) : (setCallerByte b s).err = s.err := rfl
@[simp] theorem setCallerByte_ctl (b : Byte) : (setCallerByte b s).ctl = s.ctl := rfl
@[simp] theorem setCallerByte_nesting (b : Byte) : (setCallerByte b s).nesting = s.nesting := rfl
@[simp] theorem setCallerByte_input (b : Byte) : (setCallerByte b s).input = s.input := rfl
@[simp] theorem setCallerByte_outputs (b : Byte) : (setCallerByte b s).outputs = s.outputs := rfl
@[simp] theorem setCallerByte_callerByte (b : Byte) : (setCallerByte b s).callerByte = b := rfl
@[simp] theorem setCallerByte_draws (b : Byte) : (setCallerByte b s).draws = s.draws := rfl

@[simp] theorem memWrite_cfg (c : Cell) (v : Option Byte) : (memWrite c v s).cfg = s.cfg := by cases c <;> rfl
@[simp] theorem memWrite_rx (c : Cell) (v : Option Byte) : (memWrite c v s).rx = s.rx := by cases c <;> rfl
@[simp] theorem memWrite_tx (c : Cell) (v : Option Byte) : (memWrite c v s).tx = s.tx := by cases c <;> rfl
@[simp] theorem memWrite_tm (c : Cell) (v : Option Byte) : (memWrite c v s).tm = s.tm := by cases c <;> rfl
@[simp] theorem memWrite_pin (c : Cell) (v : Option Byte) : (memWrite c v s).pin = s.pin := by cases c <;> rfl
@[simp] theorem memWrite_err (c : Cell) (v : Option Byte) : (memWrite c v s).err = s.err := by cases c <;> rfl
@[simp] theorem memWrite_ctl (c : Cell) (v : Option Byte) : (memWrite c v s).ctl = s.ctl := by cases c <;> rfl
@[simp] theorem memWrite_nesting (c : Cell) (v : Option Byte) : (memWrite c v s).nesting = s.nesting := by cases c <;> rfl
@[simp] theorem memWrite_input (c : Cell) (v : Option Byte) : (memWrite c v s).input = s.input := by cases c <;> rfl
@[simp] theorem memWrite_outputs (c : Cell) (v : Option Byte) : (memWrite c v s).outputs = s.outputs := by cases c <;> rfl
@[simp] theorem memWrite_callerByte (c : Cell) (v : Option Byte) : (memWrite c v s).callerByte = s.callerByte := by cases c <;> rfl
@[simp] theorem memWrite_draws (c : Cell) (v : Option Byte) : (memWrite c v s).draws = s.draws := by cases c <;> rfl

@[simp] theorem setChan_cfg (c : Chan) (v : Channel) : (setChan c v s).cfg = s.cfg := by cases c <;> rfl
@[simp] theorem setChan_rx (c : Chan) (v : Channel) : (setChan c v s).rx = s.rx := by cases c <;> rfl
@[simp] theorem setChan_tx (c : Chan) (v : Channel) : (setChan c v s).tx = s.tx := by cases c <;> rfl
@[simp] theorem setChan_mb (c : Chan) (v : Channel) : (setChan c v s).mb = s.mb := by cases c <;> rfl
@[simp] theorem setChan_pin (c : Chan) (v : Channel) : (setChan c v s).pin = s.pin := by cases c <;> rfl
@[simp] theorem setChan_err (c : Chan) (v : Channel) : (setChan c v s).err = s.err := by cases c <;> rfl
@[simp] theorem setChan_ctl (c : Chan) (v : Channel) : (setChan c v s).ctl = s.ctl := by cases c <;> rfl
@[simp] theorem setChan_nesting (c : Chan) (v : Channel) : (setChan c v s).nesting = s.nesting := by cases c <;> rfl
@[simp] theorem setChan_input (c : Chan) (v : Channel) : (setChan c v s).input = s.input := by cases c <;> rfl
@[simp] theorem setChan_outputs (c : Chan) (v : Channel) : (setChan c v s).outputs = s.outputs := by cases c <;> rfl
@[simp] theorem setChan_callerByte (c : Chan) (v : Channel) : (setChan c v s).callerByte = s.callerByte := by cases c <;> rfl
@[simp] theorem setChan_draws (c : Chan) (v : Channel) : (setChan c v s).draws = s.draws := by cases c <;> rfl

@[simp] theorem noteDraw_cfg (v : Option Byte) : (noteDraw v s).cfg = s.cfg := by cases v <;> rfl
@[simp] theorem noteDraw_rx (v : Option Byte) : (noteDraw v s).rx = s.rx := by cases v <;> rfl
@[simp] theorem noteDraw_tx (v : Option Byte) : (noteDraw v s).tx = s.tx := by cases v <;> rfl
@[simp] theorem noteDraw_mb (v : Option Byte) : (noteDraw v s).mb = s.mb := by cases v <;> rfl
@[simp] theorem noteDraw_tm (v : Option Byte) : (noteDraw v s).tm = s.tm := by cases v <;> rfl
@[simp] theorem noteDraw_pin (v : Option Byte) : (noteDraw v s).pin = s.pin := by cases v <;> rfl
@[simp] theorem noteDraw_err (v : Option Byte) : (noteDraw v s).err = s.err := by cases v <;> rfl
@[simp] theorem noteDraw_ctl (v : Option Byte) : (noteDraw v s).ctl = s.ctl := by cases v <;> rfl
@[simp] theorem noteDraw_nesting (v : Option Byte) : (noteDraw v s).nesting = s.nesting := by cases v <;> rfl
@[simp] theorem noteDraw_input (v : Option Byte) : (noteDraw v s).input = s.input := by cases v <;> rfl
@[simp] theorem noteDraw_outputs (v : Option Byte) : (noteDraw v s).outputs = s.outputs := by cases v <;> rfl
@[simp] theorem noteDraw_callerByte (v : Option Byte) : (noteDraw v s).callerByte = s.callerByte := by cases v <;> rfl

@[simp] theorem deliverFirst_cfg (w : OpWord) : (deliverFirst w s).cfg = s.cfg := rfl
@[simp] theorem deliverFirst_rx (w : OpWord) : (deliverFirst w s).rx = s.rx := rfl
@[simp] theorem deliverFirst_tx (w : OpWord) : (deliverFirst w s).tx = s.tx := rfl
@[simp] theorem deliverFirst_mb (w : OpWord) : (deliverFirst w s).mb = s.mb := rfl
@[simp] theorem deliverFirst_tm (w : OpWord) : (deliverFirst w s).tm = s.tm := rfl
@[simp] theorem deliverFirst_pin (w : OpWord) : (deliverFirst w s).pin = s.pin := rfl
@[simp] theorem deliverFirst_err (w : OpWord) : (deliverFirst w s).err = s.err := rfl
@[simp] theorem deliverFirst_ctl (w : OpWord) : (deliverFirst w s).ctl = s.ctl := rfl
@[simp] theorem deliverFirst_nesting (w : OpWord) : (deliverFirst w s).nesting = s.nesting := rfl
@[simp] theorem deliverFirst_input (w : OpWord) : (deliverFirst w s).input = .op w :: s.input := rfl
@[simp] theorem deliverFirst_outputs (w : OpWord) : (deliverFirst w s).outputs = s.outputs := rfl
@[simp] theorem deliverFirst_callerByte (w : OpWord) : (deliverFirst w s).callerByte = s.callerByte := rfl
@[simp] theorem deliverFirst_draws (w : OpWord) : (deliverFirst w s).draws = s.draws := rfl

@[simp] theorem storeReturned_cfg : (storeReturned s).cfg = s.cfg := by
  unfold storeReturned; split <;> rfl
@[simp] theorem storeReturned_rx : (storeReturned s).rx = s.rx := by
  unfold storeReturned; split <;> rfl
@[simp] theorem storeReturned_tx : (storeReturned s).tx = s.tx := by
  unfold storeReturned; split <;> rfl
@[simp] theorem storeReturned_mb : (storeReturned s).mb = s.mb := by
  unfold storeReturned; split <;> rfl
@[simp] theorem storeReturned_tm : (storeReturned s).tm = s.tm := by
  unfold storeReturned; split <;> rfl
@[simp] theorem storeReturned_pin : (storeReturned s).pin = s.pin := by
  unfold storeReturned; split <;> rfl
@[simp] theorem storeReturned_err : (storeReturned s).err = s.err := by
  unfold storeReturned; split <;> rfl
@[simp] theorem storeReturned_ctl : (storeReturned s).ctl = s.ctl := by
  unfold storeReturned; split <;> rfl
@[simp] theorem storeReturned_nesting : (storeReturned s).nesting = s.nesting := by
  unfold storeReturned; split <;> rfl
@[simp] theorem storeReturned_input : (storeReturned s).input = s.input := by
  unfold storeReturned; split <;> rfl
@[simp] theorem storeReturned_outputs : (storeReturned s).outputs = s.outputs := by
  unfold storeReturned; split <;> rfl
@[simp] theorem storeReturned_draws : (storeReturned s).draws = s.draws := by
  unfold storeReturned; split <;> rfl
@[simp] theorem storeReturned_callerByte :
    (storeReturned s).callerByte = (lastGetc s.outputs).getD s.callerByte := by
  unfold storeReturned; split <;> simp [*]

@[simp] theorem lastGetc_getc (r : Option Byte) (o : List Output) : lastGetc (.getc r :: o) = r := rfl
@[simp] theorem lastGetc_putc (ok : Bool) (o : List Output) : lastGetc (.putc ok :: o) = lastGetc o := rfl
@[simp] theorem lastGetc_signal (c : Condition) (o : List Output) : lastGetc (.signal c :: o) = lastGetc o := rfl

@[simp] theorem memWrite_received_mb (v : Option Byte) :
    (memWrite .received v s).mb = { s.mb with receivedByte := v } := rfl
@[simp] theorem memWrite_transmit_mb (v : Option Byte) :
    (memWrite .transmit v s).mb = { s.mb with transmitByte := v } := rfl
@[simp] theorem memRead_received : memRead .received s = s.mb.receivedByte := rfl
@[simp] theorem memRead_transmit : memRead .transmit s = s.mb.transmitByte := rfl

/-- A read after a write to the same mailbox cell gives what was written. -/
theorem memRead_memWrite_same (c : Cell) (v : Option Byte) : memRead c (memWrite c v s) = v := by
  cases c <;> rfl

/-- A write to one mailbox cell leaves the other alone. -/
theorem memRead_memWrite_other (c d : Cell) (v : Option Byte) (h : c ≠ d) :
    memRead d (memWrite c v s) = memRead d s := by
  cases c <;> cases d <;> first | rfl | exact absurd rfl h

@[simp] theorem setChan_rx_tm (v : Channel) : (setChan .rx v s).tm = { s.tm with rx := v } := rfl
@[simp] theorem setChan_tx_tm (v : Channel) : (setChan .tx v s).tm = { s.tm with tx := v } := rfl
@[simp] theorem chan_rx : s.chan .rx = s.tm.rx := rfl
@[simp] theorem chan_tx : s.chan .tx = s.tm.tx := rfl

@[simp] theorem chan_setChan_same (c : Chan) (v : Channel) : (setChan c v s).chan c = v := by
  cases c <;> rfl

/-- Writing one channel leaves the other alone. -/
theorem chan_setChan_other (c d : Chan) (v : Channel) (h : c ≠ d) :
    (setChan c v s).chan d = s.chan d := by
  cases c <;> cases d <;> first | rfl | exact absurd rfl h

@[simp] theorem noteDraw_some (b : Byte) : noteDraw (some b) s = s := rfl
@[simp] theorem slotByte_some (b : Byte) : slotByte (some b) s = b := rfl

@[simp] theorem fetch_deliverFirst (w : OpWord) : fetch (deliverFirst w s) = some (.op w, s) := rfl

theorem fetch_cons (d : Delivered) (rest : List Delivered) (h : s.input = d :: rest) :
    fetch s = some (d, { s with input := rest }) := by
  simp [fetch, h]

@[simp] theorem andThen_next (k : State → Result) : andThen (.next s) k = k s := rfl
@[simp] theorem andThen_refused (e : Refusal) (k : State → Result) :
    andThen (.refused e) k = .refused e := rfl

/-- An operation in two parts completes exactly when both parts do. -/
theorem andThen_eq_next {r : Result} {k : State → Result} {t : State} :
    andThen r k = .next t ↔ ∃ u, r = .next u ∧ k u = .next t := by
  cases r with
  | next u => simp [andThen]
  | fault f => cases f
  | refused e => simp [andThen]

@[simp] theorem takeInterrupt_eq (h : State → Result) : takeInterrupt h s = h s := rfl

theorem onlyInside_topLevel (body : State → Result) (h : s.nesting = .topLevel) :
    onlyInside body s = .refused .internalOnly := by
  simp [onlyInside, h]

theorem onlyInside_inside (body : State → Result) (h : s.nesting = .inside) :
    onlyInside body s = body s := by
  simp [onlyInside, h]

end Sys2Proof.Machine
end

