-- ==== Sys2Proof/Laws/PerInstr.lean ====
section
/-! SUPPORT. A statement about each operation as syntax: its word carries its operation code (R87) and zero in the
field that is zero in every operation (R85). -/

namespace Sys2Proof.Laws.OpcodeField

/-- The word of an operation spells the operation code of its row and a zero `zero` field. -/
def Statement (i : Instr) : Prop :=
  (fields (encode i)).opc = i.kind.opcode ∧ (fields (encode i)).zero = 0

/-- The `opc` field of a word put together from fields. -/
theorem fields_wordOf_opc (f : Fields) : (fields (wordOf f)).opc = f.opc := by
  apply BitVec.eq_of_getLsbD_eq
  intro i hi
  simp only [fields, wordOf, BitVec.getLsbD_extractLsb', BitVec.getLsbD_append]
  have h1 : ¬ 28 + i < 16 := by omega
  have h2 : ¬ 28 + i - 16 < 10 := by omega
  have h3 : ¬ 28 + i - 16 - 10 < 1 := by omega
  have h4 : ¬ 28 + i - 16 - 10 - 1 < 1 := by omega
  simp only [h1, h2, h3, h4, hi, decide_true, if_false, Bool.true_and]
  congr 1
  omega

/-- The `zero` field of a word put together from fields. -/
theorem fields_wordOf_zero (f : Fields) : (fields (wordOf f)).zero = f.zero := by
  apply BitVec.eq_of_getLsbD_eq
  intro i hi
  simp only [fields, wordOf, BitVec.getLsbD_extractLsb', BitVec.getLsbD_append]
  have h1 : ¬ 16 + i < 16 := by omega
  have h2 : 16 + i - 16 < 10 := by omega
  simp only [h1, h2, hi, decide_true, if_true, if_false, Bool.true_and]
  congr 1
  omega

/-- The statement from the fields an operation is spelled with. -/
theorem of_fieldsOf {i : Instr} (ho : (fieldsOf i).opc = i.kind.opcode) (hz : (fieldsOf i).zero = 0) :
    Statement i :=
  ⟨(fields_wordOf_opc _).trans ho, (fields_wordOf_zero _).trans hz⟩

theorem init : Statement .init := of_fieldsOf rfl rfl
theorem getc : Statement .getc := of_fieldsOf rfl rfl
theorem putc (b : Byte) : Statement (.putc b) := of_fieldsOf rfl rfl
theorem arm (c : Chan) (p : Nat) : Statement (.arm c p) := of_fieldsOf rfl rfl
theorem disarm (c : Chan) : Statement (.disarm c) := of_fieldsOf rfl rfl
theorem rearm1 (c : Chan) (d : Nat) : Statement (.rearm1 c d) := of_fieldsOf rfl rfl
theorem txstart : Statement .txstart := of_fieldsOf rfl rfl
theorem edge : Statement .edge := of_fieldsOf rfl rfl
theorem rxtick (l : Level) : Statement (.rxtick l) := of_fieldsOf rfl rfl
theorem txtick : Statement .txtick := of_fieldsOf rfl rfl
theorem clk (l : Level) : Statement (.clk l) := of_fieldsOf rfl rfl

end Sys2Proof.Laws.OpcodeField
end

