-- ==== Sys2Proof/Laws/Decode.lean ====
section
/-! SUPPORT. Fields and words are two views of the same 32 bits, and what a must-be-zero check says. -/

namespace Sys2Proof

/-- The fields of a word put together from fields are those fields (R85). -/
theorem fields_wordOf (f : Fields) : fields (wordOf f) = f := by
  have hopc := Laws.OpcodeField.fields_wordOf_opc f
  have hzero := Laws.OpcodeField.fields_wordOf_zero f
  have hch : (fields (wordOf f)).ch = f.ch := by
    simp only [fields, wordOf, BitVec.getLsbD_append]
    simp
  have hlvl : (fields (wordOf f)).lvl = f.lvl := by
    simp only [fields, wordOf, BitVec.getLsbD_append]
    simp
  have himm : (fields (wordOf f)).imm = f.imm := by
    apply BitVec.eq_of_getLsbD_eq
    intro j hj
    simp only [fields, wordOf, BitVec.getLsbD_append, BitVec.getLsbD_extractLsb', hj]
    simp [hj]
  cases h : fields (wordOf f)
  cases f
  simp_all

/-- A word is put together from its own fields (R85). -/
theorem wordOf_fields (w : OpWord) : wordOf (fields w) = w := by
  apply BitVec.eq_of_getLsbD_eq
  intro j hj
  simp only [fields, wordOf, BitVec.getLsbD_append, BitVec.getLsbD_extractLsb', BitVec.getLsbD_ofBool]
  have hcases : j < 16 ∨ (16 ≤ j ∧ j < 26) ∨ j = 26 ∨ j = 27 ∨ 28 ≤ j := by omega
  rcases hcases with h | ⟨h, h'⟩ | h | h | h
  · simp [h]
  · have a : ¬j < 16 := by omega
    have b : j - 16 < 10 := by omega
    simp only [a, b, decide_true, if_false, if_true, Bool.true_and]
    congr 1
    omega
  · subst h; simp
  · subst h; simp
  · have a : ¬j < 16 := by omega
    have b : ¬j - 16 < 10 := by omega
    have c : ¬j - 16 - 10 < 1 := by omega
    have d : ¬j - 16 - 10 - 1 < 1 := by omega
    have e : j - 16 - 10 - 1 - 1 < 4 := by omega
    simp only [a, b, c, d, e, decide_true, if_false, Bool.true_and]
    congr 1
    omega

/-- A must-be-zero check passes an operation on exactly when it holds (R88). -/
theorem requireZero_ok {ok : Bool} {why : Illegal} {k : Except Illegal Instr} {i : Instr} :
    requireZero ok why k = .ok i ↔ ok = true ∧ k = .ok i := by
  cases ok <;> simp [requireZero]

end Sys2Proof
end

