-- ==== Sys2Proof/Laws/Ops.lean ====
section
/-! SUPPORT. One lemma for each shared operation that says what it does, and for each that can refuse, everything
it can have done when it completed. -/

namespace Sys2Proof.Machine

variable {s t : State} {c : Chan} {p : Nat} {l : Level} {b : Byte}

/-! The parameters (R7, R8, R104). -/

theorem bitPeriod_bounds (g : Config) : 2 ≤ g.bitPeriod ∧ g.bitPeriod ≤ 65535 := by
  have h := of_decide_eq_true g.valid
  simpa [Config.timerWidth, Config.bitPeriod] using h

theorem halfBit_bounds (g : Config) :
    1 ≤ g.halfBit ∧ g.halfBit < g.bitPeriod ∧ g.halfBit ≤ 65535 := by
  have := bitPeriod_bounds g
  simp only [Config.halfBit]
  omega

theorem intervalOk_iff {n : Nat} : intervalOk n = true ↔ 1 ≤ n ∧ n ≤ 65535 := by
  rw [intervalOk, decide_eq_true_iff]
  simp [Config.timerWidth]

theorem intervalOk_bitPeriod (g : Config) : intervalOk g.bitPeriod = true := by
  have := bitPeriod_bounds g
  exact intervalOk_iff.2 ⟨by omega, this.2⟩

theorem intervalOk_halfBit (g : Config) : intervalOk g.halfBit = true := by
  have := halfBit_bounds g
  exact intervalOk_iff.2 ⟨this.1, this.2.2⟩

theorem ticksOf_toNat {n : Nat} (h : n ≤ 65535) : (ticksOf n).toNat = n := by
  simp [ticksOf]
  omega

/-! The Bit-Timer Controller (R101 to R106). -/

theorem arm_disarmed (hp : intervalOk p = true) (h : (s.chan c).armed = false) :
    arm c p s = .next (setChan c
      { armed := true, oneShot := false, count := ticksOf p, period := ticksOf p } s) := by
  simp [arm, hp, h]

theorem arm_armed (hp : intervalOk p = true) (h : (s.chan c).armed = true) :
    arm c p s = .next s := by
  simp [arm, hp, h]

theorem arm_bad (hp : intervalOk p = false) : arm c p s = .refused .badInterval := by
  simp [arm, hp]

/-- Everything a completed `ARM` can have done (R101). -/
theorem arm_cases (h : arm c p s = .next t) :
    intervalOk p = true ∧
      (((s.chan c).armed = true ∧ t = s) ∨
       ((s.chan c).armed = false ∧ t = setChan c
          { armed := true, oneShot := false, count := ticksOf p, period := ticksOf p } s)) := by
  unfold arm at h
  split at h
  · rename_i hp
    refine ⟨hp, ?_⟩
    split at h
    · rename_i ha
      exact .inl ⟨ha, by simpa using h.symm⟩
    · rename_i ha
      exact .inr ⟨by simpa using ha, by simpa using h.symm⟩
  · cases h

theorem rearm1_ok (hp : intervalOk p = true) :
    rearm1 c p s =
      .next (setChan c { s.chan c with armed := true, oneShot := true, count := ticksOf p } s) := by
  simp [rearm1, hp]

theorem rearm1_bad (hp : intervalOk p = false) : rearm1 c p s = .refused .badInterval := by
  simp [rearm1, hp]

theorem fire_oneShot (h : (s.chan c).oneShot = true) :
    fire c s = setChan c { s.chan c with armed := false, oneShot := false, count := 0 } s := by
  simp [fire, h]

theorem fire_periodic (h : (s.chan c).oneShot = false) :
    fire c s = setChan c { s.chan c with count := (s.chan c).period } s := by
  simp [fire, h]

/-- `Fire(c)` writes one channel and nothing else (R106). -/
theorem fire_frame (c : Chan) (s : State) : ∃ v : Channel, fire c s = setChan c v s := by
  unfold fire
  split <;> exact ⟨_, rfl⟩

/-! The receive side (R120, R127). -/

theorem edgeHandler_disabled (h : edgeEnable s = false) : edgeHandler s = .next s := by
  simp [edgeHandler, h]

theorem edgeHandler_enabled (h : edgeEnable s = true) :
    edgeHandler s = .next (setChan .rx
      { s.tm.rx with armed := true, oneShot := true, count := ticksOf s.cfg.halfBit }
      (setRx { phase := .startDetected, shiftRegister := 0, bitsReceived := 0 } s)) := by
  simp [edgeHandler, h, rearm1_ok (intervalOk_halfBit _)]

theorem deposit_empty (h : s.mb.receivedReady = false) :
    deposit b s = { s with mb := { s.mb with receivedByte := some b, receivedReady := true } } := by
  simp [deposit, h, memWrite, setReceivedReady]

theorem deposit_dropNew (h : s.mb.receivedReady = true) (hp : s.cfg.overrun = .dropNew) :
    deposit b s = { s with
      err := { s.err with overrun := true }, outputs := .signal .receiveOverrun :: s.outputs } := by
  simp [deposit, h, hp, setOverrun, signal, emit]

theorem deposit_overwrite (h : s.mb.receivedReady = true) (hp : s.cfg.overrun = .overwrite) :
    deposit b s = { s with
      mb := { s.mb with receivedByte := some b }
      err := { s.err with overrun := true }, outputs := .signal .receiveOverrun :: s.outputs } := by
  simp [deposit, h, hp, setOverrun, signal, emit, memWrite]

/-- A deposit writes the receive slot, the overrun flag and the outputs, and nothing else (R127). -/
theorem deposit_frame (b : Byte) (s : State) :
    ∃ (rb : Option Byte) (ov : Bool) (out : List Output),
      deposit b s = { s with
        mb := { s.mb with receivedByte := rb, receivedReady := true }
        err := { s.err with overrun := ov }, outputs := out } := by
  cases h : s.mb.receivedReady with
  | false => exact ⟨_, s.err.overrun, s.outputs, by rw [deposit_empty h]⟩
  | true =>
    cases hp : s.cfg.overrun with
    | dropNew => exact ⟨s.mb.receivedByte, true, _, by rw [deposit_dropNew h hp, ← h]⟩
    | overwrite => exact ⟨_, true, _, by rw [deposit_overwrite h hp, ← h]⟩

/-! The transmit side (R140). -/

theorem txStart_idle (hq : ¬(s.tx.phase = .idle ∧ s.mb.transmitBusy = true)) :
    txStart s = .next s := by
  simp only [txStart, if_neg hq]

theorem withdraw_byte (h : s.mb.transmitByte = some b) :
    withdraw s = { s with
      tx := { phase := .sendingStart, pendingByte := b, bitsSent := 0 }
      pin := { s.pin with tx := false }
      mb := { s.mb with transmitByte := none, transmitBusy := false } } := by
  simp [withdraw, h, setTx, setPinTx, setTransmitBusy, memWrite]

/-- A `TXSTART` that acts, on a slot that holds a byte and a disarmed channel (R140). -/
theorem txStart_acts (hi : s.tx.phase = .idle)
    (hb : s.mb.transmitBusy = true) (h : s.mb.transmitByte = some b) (ha : s.tm.tx.armed = false) :
    txStart s = .next { s with
      tx := { phase := .sendingStart, pendingByte := b, bitsSent := 0 }
      pin := { s.pin with tx := false }
      mb := { s.mb with transmitByte := none, transmitBusy := false }
      tm := { s.tm with tx := { armed := true, oneShot := false, count := ticksOf s.cfg.bitPeriod,
                                period := ticksOf s.cfg.bitPeriod } } } := by
  simp only [txStart, hi, hb, and_self, if_true, withdraw_byte h]
  rw [arm_disarmed (intervalOk_bitPeriod _) (by simpa using ha)]
  rfl

/-! The time base (R180). -/

theorem clockChan_disarmed {k : State → Result} (h : (s.chan c).armed = false) :
    clockChan c k s = .next s := by
  simp [clockChan, h]

theorem clockChan_counts {k : State → Result} (h : (s.chan c).armed = true)
    (hn : (s.chan c).count ≠ 1) :
    clockChan c k s = .next (countDown c s) := by
  have hc : ((countDown c s).chan c).count ≠ 0 := by
    simp only [countDown, chan_setChan_same]
    intro h0
    exact hn (by simpa using (sub_eq_zero.mp h0))
  simp only [clockChan, h, if_true, if_neg hc]

theorem clockChan_fires {k : State → Result} (h : (s.chan c).armed = true)
    (hn : (s.chan c).count = 1) :
    clockChan c k s = k (countDown c s) := by
  have hc : ((countDown c s).chan c).count = 0 := by
    simp only [countDown, chan_setChan_same, hn]
    decide
  simp only [clockChan, h, if_true, if_pos hc, takeInterrupt_eq]

theorem execClk_before_init (h : s.ctl.initialised = false) : execClk l s = .next s := by
  simp [execClk, h]

theorem execClk_running (h : s.ctl.initialised = true) :
    execClk l s = andThen (clockChan .tx txTickHandler s) fun s =>
      andThen (clockChan .rx (rxTickHandler l) s) fun s => clockEdge l s := by
  simp [execClk, h]

/-- A completed `CLK` after `INIT` is its three steps, each completed (R180). -/
theorem execClk_cases (h : s.ctl.initialised = true) (he : execClk l s = .next t) :
    ∃ u v, clockChan .tx txTickHandler s = .next u ∧
      clockChan .rx (rxTickHandler l) u = .next v ∧ clockEdge l v = .next t := by
  rw [execClk_running h] at he
  obtain ⟨u, hu, he⟩ := andThen_eq_next.1 he
  obtain ⟨v, hv, he⟩ := andThen_eq_next.1 he
  exact ⟨u, v, hu, hv, he⟩

/-! The driver interface (R160, R161). -/

/-- A `GETC` that finds a byte returns it and empties the slot, and writes nothing else (R160). -/
theorem execGetc_ready (hi : s.ctl.initialised = true) (h : s.mb.receivedReady = true)
    (hb : s.mb.receivedByte = some b) :
    execGetc s = .next { s with
      mb := { s.mb with receivedByte := none, receivedReady := false }
      outputs := .getc (some b) :: s.outputs } := by
  simp [execGetc, hi, h, takeReceived, hb, emit, setReceivedReady, memWrite]

theorem execGetc_empty (hi : s.ctl.initialised = true) (h : s.mb.receivedReady = false) :
    execGetc s = .next (emit (.getc none) s) := by
  simp [execGetc, hi, h]

/-! One step. -/

theorem step_empty (h : s.input = []) : step s = .refused .nothingDelivered := by
  simp [step, fetch, h]

/-- The store of a returned byte is a step that writes the caller's byte and nothing else (R161). -/
theorem step_storeByte {rest : List Delivered} (h : s.input = .storeByte :: rest) :
    step s = .next (storeReturned { s with input := rest }) := by
  simp [step, fetch, h]

theorem step_op {w : OpWord} {rest : List Delivered} {i : Instr} (h : s.input = .op w :: rest)
    (hd : decode w = .ok i) : step s = exec i { s with input := rest } := by
  simp [step, fetch, h, hd]

theorem runOps_nil : runOps [] s = .next s := rfl

theorem runOps_cons (i : Instr) (rest : List Instr) :
    runOps (i :: rest) s = andThen (exec i s) (runOps rest) := rfl

end Sys2Proof.Machine
end

