-- ==== Sys2Proof/Laws/Running.lean ====
section
/-! SUPPORT. What the firing step, the handlers and the counts are in a running block (10_state.md R37). -/

namespace Sys2Proof.Machine

variable {s : State} {l : Level}

/-! The firing step in each phase (R106, R108). -/

theorem Running.fire_rx_oneShot (hr : Running s) (h : s.rx.phase = .startDetected) :
    fire .rx s = { s with tm := { s.tm with rx :=
      { armed := false, oneShot := false, count := 0, period := s.tm.rx.period } } } := by
  rw [fire_oneShot (by simp [hr.ok.rxOneShot, h])]
  rfl

theorem Running.fire_rx_periodic (hr : Running s) (h : s.rx.phase ≠ .idle)
    (h' : s.rx.phase ≠ .startDetected) :
    fire .rx s = { s with tm := { s.tm with rx :=
      { armed := true, oneShot := false, count := ticksOf s.cfg.bitPeriod,
        period := ticksOf s.cfg.bitPeriod } } } := by
  have h1 : s.tm.rx.oneShot = false := by simp [hr.ok.rxOneShot, h']
  have h2 : s.tm.rx.armed = true := by simp [hr.ok.rxArmed, h]
  have h3 := hr.ok.rxChannel.periodArmed h2 h1
  rw [fire_periodic (by simpa using h1)]
  simp [setChan, h1, h2, h3]

theorem Running.fire_tx_periodic (hr : Running s) (h : s.tx.phase ≠ .idle) :
    fire .tx s = { s with tm := { s.tm with tx :=
      { armed := true, oneShot := false, count := ticksOf s.cfg.bitPeriod,
        period := ticksOf s.cfg.bitPeriod } } } := by
  have h2 : s.tm.tx.armed = true := by simp [hr.ok.txArmed, h]
  have h3 := hr.ok.txChannel.periodArmed h2 hr.ok.txOneShot
  rw [fire_periodic (by simpa using hr.ok.txOneShot)]
  simp [setChan, hr.ok.txOneShot, h2, h3]

/-! A firing out of `Idle` runs its handler body (R121, R141). -/

theorem Running.rxTickHandler_eq (hr : Running s) (h : s.rx.phase ≠ .idle) :
    rxTickHandler l s = rxBody l (fire .rx s) := by
  have h2 : s.tm.rx.armed = true := by simp [hr.ok.rxArmed, h]
  simp [rxTickHandler, hr.initialised, h2]

theorem Running.txTickHandler_eq (hr : Running s) (h : s.tx.phase ≠ .idle) :
    txTickHandler s = txBody (fire .tx s) := by
  have h2 : s.tm.tx.armed = true := by simp [hr.ok.txArmed, h]
  simp [txTickHandler, hr.initialised, h2]

/-! `Fire(c)` writes the count, so a handler does not see how far the channel had counted. -/

theorem rxTickHandler_countDown (l : Level) (s : State) :
    rxTickHandler l (countDown .rx s) = rxTickHandler l s := by
  obtain ⟨cfg, rx, tx, mb, ⟨⟨_, ro, _, _⟩, _⟩, _⟩ := s
  cases ro <;> rfl

theorem txTickHandler_countDown (s : State) :
    txTickHandler (countDown .tx s) = txTickHandler s := by
  obtain ⟨cfg, rx, tx, mb, ⟨_, ⟨_, ro, _, _⟩⟩, _⟩ := s
  cases ro <;> rfl

/-! The channel invariant of the channels the block programs (R37 I8). -/

theorem ChannelOk.periodic (g : Config) :
    ChannelOk g { armed := true, oneShot := false, count := ticksOf g.bitPeriod,
                  period := ticksOf g.bitPeriod } := by
  have hb := bitPeriod_bounds g
  refine ⟨?_, by simp, by simp⟩
  intro _
  simp only [ticksOf_toNat hb.2]
  omega

theorem ChannelOk.halfBit (g : Config) (p : Ticks) :
    ChannelOk g { armed := true, oneShot := true, count := ticksOf g.halfBit, period := p } := by
  have hb := halfBit_bounds g
  refine ⟨?_, by simp, by simp⟩
  intro _
  simp only [ticksOf_toNat hb.2.2]
  omega

theorem ChannelOk.stopped (g : Config) (p : Ticks) :
    ChannelOk g { armed := false, oneShot := false, count := 0, period := p } :=
  ⟨by simp, by simp, by simp⟩

/-- Counting an armed channel down from more than 1 keeps the channel invariant. -/
theorem ChannelOk.countDown {g : Config} {c : Channel} (h : ChannelOk g c) (ha : c.armed = true)
    (hn : c.count ≠ 1) : ChannelOk g { c with count := c.count - 1 } := by
  have hc := h.countArmed ha
  refine ⟨?_, by simp [ha], h.periodArmed⟩
  intro _
  have h1 : c.count.toNat ≠ 1 := fun h => hn (BitVec.eq_of_toNat_eq h)
  have hs : (c.count - 1).toNat = c.count.toNat - 1 := by
    rw [BitVec.toNat_sub_of_le]
    · rfl
    · show 1 ≤ c.count.toNat
      omega
  simp only [hs]
  omega

/-- `l :: sr[7:1]`, bit by bit (R124). -/
theorem shiftIn_bit (l : Level) (b : Byte) (j : Nat) :
    (shiftIn l b).getLsbD j = if j = 7 then l else (decide (j < 7) && b.getLsbD (j + 1)) := by
  simp only [shiftIn, BitVec.getLsbD_cons, BitVec.getLsbD_extractLsb']
  by_cases h : j = 7
  · simp [h]
  · simp only [h, if_false]
    rw [Nat.add_comm]

end Sys2Proof.Machine
end

