-- ==== Sys2Proof/Laws/Frames.lean ====
section
/-! SUPPORT. What the handlers leave: the receive handlers the transmit side, the transmit handlers the receive
side; what a completed part of a tick can have done; and what the store of a returned byte writes. -/

namespace Sys2Proof.Machine

variable {s t u : State} {c : Chan} {p : Nat} {l : Level}

theorem SameTransmitSide.refl (s : State) : SameTransmitSide s s := by simp [SameTransmitSide]

theorem SameTransmitSide.trans (h : SameTransmitSide s t) (g : SameTransmitSide t u) :
    SameTransmitSide s u := by
  simp only [SameTransmitSide] at *
  simp_all

theorem SameReceiveSide.refl (s : State) : SameReceiveSide s s := by simp [SameReceiveSide]

theorem SameReceiveSide.trans (h : SameReceiveSide s t) (g : SameReceiveSide t u) :
    SameReceiveSide s u := by
  simp only [SameReceiveSide] at *
  simp_all

/-! A part of a tick (R180). -/

/-- Everything a completed channel step of `CLK` can have done. -/
theorem clockChan_cases {k : State → Result} (h : clockChan c k s = .next t) :
    ((s.chan c).armed = false ∧ t = s) ∨
    ((s.chan c).armed = true ∧ (s.chan c).count ≠ 1 ∧ t = countDown c s) ∨
    ((s.chan c).armed = true ∧ (s.chan c).count = 1 ∧ k (countDown c s) = .next t) := by
  cases ha : (s.chan c).armed with
  | false =>
    rw [clockChan_disarmed ha] at h
    cases h
    exact .inl ⟨rfl, rfl⟩
  | true =>
    by_cases hc : (s.chan c).count = 1
    · rw [clockChan_fires ha hc] at h
      exact .inr (.inr ⟨rfl, hc, h⟩)
    · rw [clockChan_counts ha hc] at h
      cases h
      exact .inr (.inl ⟨rfl, hc, rfl⟩)

/-- Everything a completed edge step of `CLK` can have done. -/
theorem clockEdge_cases (h : clockEdge l s = .next t) :
    ∃ u, t = setRxPrev l u ∧
      ((fallingEdge l s = true ∧ edgeHandler s = .next u) ∨ (fallingEdge l s = false ∧ u = s)) := by
  obtain ⟨u, h1, h2⟩ := andThen_eq_next.1 h
  refine ⟨u, by simpa using h2.symm, ?_⟩
  cases hf : fallingEdge l s with
  | false => exact .inr ⟨rfl, by simpa [hf] using h1.symm⟩
  | true => exact .inl ⟨rfl, by simpa [hf] using h1⟩

/-- Everything a completed edge interrupt can have done (R120). -/
theorem edgeHandler_cases (h : edgeHandler s = .next t) :
    (edgeEnable s = false ∧ t = s) ∨
    (edgeEnable s = true ∧ t = setChan .rx
      { s.tm.rx with armed := true, oneShot := true, count := ticksOf s.cfg.halfBit }
      (setRx { phase := .startDetected, shiftRegister := 0, bitsReceived := 0 } s)) := by
  cases he : edgeEnable s with
  | false =>
    rw [edgeHandler_disabled he] at h
    cases h
    exact .inl ⟨rfl, rfl⟩
  | true =>
    rw [edgeHandler_enabled he] at h
    cases h
    exact .inr ⟨rfl, rfl⟩

/-! The receive handlers leave the transmit side (R29, R40). -/

theorem setChan_rx_transmitSide (v : Channel) (s : State) : SameTransmitSide s (setChan .rx v s) := by
  simp [SameTransmitSide]

theorem arm_rx_transmitSide (h : arm .rx p s = .next t) : SameTransmitSide s t := by
  obtain ⟨_, ⟨_, rfl⟩ | ⟨_, rfl⟩⟩ := arm_cases h
  · exact .refl _
  · exact setChan_rx_transmitSide _ _

theorem deposit_transmitSide (b : Byte) (s : State) : SameTransmitSide s (deposit b s) := by
  obtain ⟨_, _, _, h⟩ := deposit_frame b s
  rw [h]
  simp [SameTransmitSide]

theorem rxStopByte_transmitSide (l : Level) (s : State) : SameTransmitSide s (rxStopByte l s) := by
  have hf : SameTransmitSide s (setFraming (signal .framingError s)) := by simp [SameTransmitSide]
  unfold rxStopByte
  split
  · exact deposit_transmitSide _ _
  · dsimp only
    split
    · exact hf.trans (deposit_transmitSide _ _)
    · exact hf

theorem rxBody_transmitSide (h : rxBody l s = .next t) : SameTransmitSide s t := by
  unfold rxBody rxStartBody at h
  (repeat' split at h)
  · cases h
    simp [SameTransmitSide, disarm]
  · exact SameTransmitSide.trans (by simp [SameTransmitSide]) (arm_rx_transmitSide h)
  · cases h
    simp [SameTransmitSide, rxDataBody]
  · cases h
    have h := (setChan_rx_transmitSide _ s).trans (rxStopByte_transmitSide l (disarm .rx s))
    exact h.trans (by simp [SameTransmitSide, rxStopBody])
  · cases h

theorem rxTickHandler_transmitSide (h : rxTickHandler l s = .next t) : SameTransmitSide s t := by
  unfold rxTickHandler at h
  (repeat' split at h)
  · obtain ⟨v, hv⟩ := fire_frame .rx s
    rw [hv] at h
    exact (setChan_rx_transmitSide _ _).trans (rxBody_transmitSide h)
  · cases h
  · cases h

theorem edgeHandler_transmitSide (h : edgeHandler s = .next t) : SameTransmitSide s t := by
  obtain ⟨_, rfl⟩ | ⟨_, rfl⟩ := edgeHandler_cases h
  · exact .refl _
  · simp [SameTransmitSide]

/-! The transmit handlers leave the receive side (R29, R40). -/

theorem setChan_tx_receiveSide (v : Channel) (s : State) : SameReceiveSide s (setChan .tx v s) := by
  simp [SameReceiveSide]

theorem arm_tx_receiveSide (h : arm .tx p s = .next t) : SameReceiveSide s t := by
  obtain ⟨_, ⟨_, rfl⟩ | ⟨_, rfl⟩⟩ := arm_cases h
  · exact .refl _
  · exact setChan_tx_receiveSide _ _

theorem txStart_receiveSide (h : txStart s = .next t) : SameReceiveSide s t := by
  unfold txStart at h
  split at h
  · exact SameReceiveSide.trans (t := withdraw s) (by simp [SameReceiveSide, withdraw]) (arm_tx_receiveSide h)
  · cases h
    exact .refl _

theorem txBody_receiveSide (h : txBody s = .next t) : SameReceiveSide s t := by
  unfold txBody at h
  split at h
  · cases h
    simp [SameReceiveSide, txStartBitEnd]
  · cases h
    unfold txDataBitEnd
    split <;> simp [SameReceiveSide]
  · exact SameReceiveSide.trans (by simp [SameReceiveSide, disarm]) (txStart_receiveSide h)
  · cases h

theorem txTickHandler_receiveSide (h : txTickHandler s = .next t) : SameReceiveSide s t := by
  unfold txTickHandler at h
  (repeat' split at h)
  · obtain ⟨v, hv⟩ := fire_frame .tx s
    rw [hv] at h
    exact (setChan_tx_receiveSide _ _).trans (txBody_receiveSide h)
  · cases h
  · cases h

/-! The store of a returned byte (R161). -/

/-- The store writes the caller's byte and nothing else, so it keeps both sides. -/
theorem storeReturned_frame (s : State) : ∃ b : Byte, storeReturned s = { s with callerByte := b } := by
  unfold storeReturned
  split
  · exact ⟨_, rfl⟩
  · exact ⟨s.callerByte, rfl⟩

end Sys2Proof.Machine
end

