-- ==== Sys2Proof/Machine/Trace.lean ====
section
/-! DEFINITION. The trace spelling of operations and their results (30_encoding.md R90). -/

namespace Sys2Proof.Machine

/-- One hexadecimal digit. -/
def hexDigit (n : Nat) : String :=
  match n with
  | 0 => "0" | 1 => "1" | 2 => "2" | 3 => "3" | 4 => "4" | 5 => "5" | 6 => "6" | 7 => "7"
  | 8 => "8" | 9 => "9" | 10 => "A" | 11 => "B" | 12 => "C" | 13 => "D" | 14 => "E" | _ => "F"

/-- A byte in hexadecimal (R90). -/
def byteText (b : Byte) : String := "0x" ++ hexDigit (b.toNat / 16) ++ hexDigit (b.toNat % 16)

/-- A level, `0` or `1` (R90). -/
def levelText (l : Level) : String := if l then "1" else "0"

/-- A channel, `RX` or `TX` (R90). -/
def chanText : Chan → String
  | .rx => "RX"
  | .tx => "TX"

/-- The mnemonic in capitals and the operands (R90); tick counts in decimal. -/
def instrText : Instr → String
  | .init => "INIT"
  | .getc => "GETC"
  | .putc b => "PUTC " ++ byteText b
  | .arm c p => "ARM " ++ chanText c ++ ", " ++ toString p
  | .disarm c => "DISARM " ++ chanText c
  | .rearm1 c d => "REARM1 " ++ chanText c ++ ", " ++ toString d
  | .txstart => "TXSTART"
  | .edge => "EDGE"
  | .rxtick l => "RXTICK " ++ levelText l
  | .txtick => "TXTICK"
  | .clk l => "CLK " ++ levelText l

/-- The reason of a refusal as R206 spells it; the model's own refusals under their own names. -/
def refusalText : Refusal → String
  | .notInitialised => "NotInitialised"
  | .reInit => "ReInit"
  | .spuriousTick => "SpuriousTick"
  | .badInterval => "BadInterval"
  | .internalOnly => "InternalOnly"
  | .illegalOperation _ => "IllegalOperation"
  | .unreachable => "Unreachable"
  | .nothingDelivered => "NothingDelivered"
  | _ => "NoMeaning"

/-- A result as R90 writes it; a signalled condition is no result. -/
def resultText : Output → Option String
  | .getc none => some "(false, -)"
  | .getc (some b) => some ("(true, " ++ byteText b ++ ")")
  | .putc true => some "true"
  | .putc false => some "false"
  | .signal _ => none

/-- The trace line of an operation performed in a state (R90): its result, if it has one, is the
newest output of `GETC` and `PUTC`. -/
def traceLine (i : Instr) (s : State) : String :=
  match exec i s, i.context with
  | .next t, .application =>
    match t.outputs.head?.bind resultText, i with
    | some r, .getc => instrText i ++ " -> " ++ r
    | some r, .putc _ => instrText i ++ " -> " ++ r
    | _, _ => instrText i
  | .next _, _ => instrText i
  | .refused e, _ => instrText i ++ " -> refused(" ++ refusalText e ++ ")"

end Sys2Proof.Machine
end

