-- ==== Sys2Proof/Tests/Slice0.lean ====
section
/-! SUPPORT. Tests against the spec's own examples and vectors (95_test_vectors.md V<n>, the examples of the rules), the
WellFormed smoke, and a witness for the hypotheses of every statement. -/

namespace Sys2Proof.Tests

open Sys2Proof.Machine

/-! ## Well-formedness (30_encoding.md R86): one check, two forms of term -/

theorem test_wellFormed_refuses_wide_arm : (Instr.arm .rx 65536).wellFormed = false := by decide
theorem test_wellFormed_refuses_wide_rearm1 : (Instr.rearm1 .tx 65536).wellFormed = false := by decide
theorem test_wellFormed_accepts_full_arm : (Instr.arm .tx 65535).wellFormed = true := by decide

/-! ## Decoding: each row's word written out field by field from R85 and R87:
`opc`, `ch`, `lvl`, `zero`, `imm16` -/

theorem test_decode_init : decode (0b0001#4 ++ 0b0#1 ++ 0b0#1 ++ 0b0000000000#10 ++ 0b0000000000000000#16) = .ok .init := by decide
theorem test_decode_getc : decode (0b0010#4 ++ 0b0#1 ++ 0b0#1 ++ 0b0000000000#10 ++ 0b0000000000000000#16) = .ok .getc := by decide
theorem test_decode_putc : decode (0b0011#4 ++ 0b0#1 ++ 0b0#1 ++ 0b0000000000#10 ++ 0b0000000001000001#16) = .ok (.putc 0x41) := by decide
theorem test_decode_arm : decode (0b0100#4 ++ 0b1#1 ++ 0b0#1 ++ 0b0000000000#10 ++ 0b0000000001101000#16) = .ok (.arm .tx 104) := by decide
theorem test_decode_disarm : decode (0b0101#4 ++ 0b0#1 ++ 0b0#1 ++ 0b0000000000#10 ++ 0b0000000000000000#16) = .ok (.disarm .rx) := by decide
theorem test_decode_rearm1 : decode (0b0110#4 ++ 0b0#1 ++ 0b0#1 ++ 0b0000000000#10 ++ 0b0000000000110100#16) = .ok (.rearm1 .rx 52) := by decide
theorem test_decode_txstart : decode (0b0111#4 ++ 0b0#1 ++ 0b0#1 ++ 0b0000000000#10 ++ 0b0000000000000000#16) = .ok .txstart := by decide
theorem test_decode_edge : decode (0b1000#4 ++ 0b0#1 ++ 0b0#1 ++ 0b0000000000#10 ++ 0b0000000000000000#16) = .ok .edge := by decide
theorem test_decode_rxtick : decode (0b1001#4 ++ 0b0#1 ++ 0b1#1 ++ 0b0000000000#10 ++ 0b0000000000000000#16) = .ok (.rxtick true) := by decide
theorem test_decode_txtick : decode (0b1010#4 ++ 0b0#1 ++ 0b0#1 ++ 0b0000000000#10 ++ 0b0000000000000000#16) = .ok .txtick := by decide
theorem test_decode_clk : decode (0b1011#4 ++ 0b0#1 ++ 0b1#1 ++ 0b0000000000#10 ++ 0b0000000000000000#16) = .ok (.clk true) := by decide

/-- V1: `ARM RX, 0` is a legal spelling. -/
theorem test_decode_arm_zero : decode 0x40000000#32 = .ok (.arm .rx 0) := by decide

/-- V2: every illegal word of the list, with the field that makes it illegal. -/
theorem test_decode_illegal :
    decode 0x00000000#32 = .error .opcodeZero ∧ decode 0xC0000000#32 = .error .opcodeReserved ∧
    decode 0xD0000000#32 = .error .opcodeReserved ∧ decode 0xE0000000#32 = .error .opcodeReserved ∧
    decode 0xFFFFFFFF#32 = .error .opcodeReserved ∧ decode 0x18000000#32 = .error .channelBit ∧
    decode 0x24000000#32 = .error .levelBit ∧ decode 0x30000141#32 = .error .immediateBits ∧
    decode 0x30010041#32 = .error .zeroBits ∧ decode 0x44000068#32 = .error .levelBit ∧
    decode 0x50000001#32 = .error .immediateBits ∧ decode 0x98000000#32 = .error .channelBit ∧
    decode 0xA0000001#32 = .error .immediateBits ∧ decode 0xB0000001#32 = .error .immediateBits := by
  decide

/-- V1, the other direction. -/
theorem test_encode_words :
    encode (.putc 0xFF) = 0x300000FF#32 ∧ encode (.arm .tx 65535) = 0x4800FFFF#32 ∧
    encode (.disarm .tx) = 0x58000000#32 ∧ encode (.rearm1 .tx 1) = 0x68000001#32 ∧
    encode (.rxtick false) = 0x90000000#32 ∧ encode (.clk true) = 0xB4000000#32 := by decide

theorem test_decodeTableWord : decodeTableWord 32 0x48000068 = some (.arm .tx 104) ∧
    decodeTableWord 32 0 = none ∧ decodeTableWord 64 0x10000000 = none := by decide

/-- V3: frame words. -/
theorem test_frame_words : frameWord 0x41 = 0x282#10 ∧ frameWord 0x55 = 0x2AA#10 ∧
    frameWord 0x80 = 0x300#10 ∧ frameWord 0x01 = 0x202#10 := by decide

/-- V3: the cells of `0x41`. -/
theorem test_frame_cells : frameCells 0x41 =
    [false, true, false, false, false, false, false, true, false, true] := by decide

/-! ## States for single steps -/

/-- A channel with one tick to go if it is armed, and the period of the reference parameters. -/
def demoChan (armed oneShot : Bool) : Channel :=
  { armed := armed, oneShot := oneShot, count := if armed then 1 else 0, period := 104 }

theorem demoChan_ok (armed oneShot : Bool) : ChannelOk Config.reference (demoChan armed oneShot) := by
  cases armed <;> cases oneShot <;> exact ⟨by decide, by decide, by decide⟩

/-- An initialised block with the given phases, accumulator, sent byte, queued byte and received byte; each
armed channel has one tick to go and the input line was last seen high. -/
def demo (rp : RxPhase) (sr : Byte) (tp : TxPhase) (pb : Byte) (queued received : Option Byte) : State :=
  { State.reset with
    rx := { phase := rp, shiftRegister := sr, bitsReceived := rp.bitsDone }
    tx := { phase := tp, pendingByte := pb, bitsSent := tp.bitsDone }
    mb := { receivedByte := received, receivedReady := received.isSome
            transmitByte := queued, transmitBusy := queued.isSome }
    tm := { rx := demoChan (decide (rp ≠ .idle)) (decide (rp = .startDetected))
            tx := demoChan (decide (tp ≠ .idle)) false }
    pin := { tx := tp.level pb, rxPrev := true }
    ctl := { initialised := true, gie := true } }

/-- The demo states are running blocks, given I9, I10 and I11. -/
theorem demo_running {rp : RxPhase} {sr : Byte} {tp : TxPhase} {pb : Byte} {q r : Option Byte}
    (h9 : tp = .idle → q = none ∧ pb = 0)
    (h10 : rp = .idle ∨ rp = .startDetected → sr = 0)
    (h11 : ∀ i : Fin 8, rp = .samplingBit i → ∀ j : Fin 8, j.val + i.val < 8 → sr.getLsbD j.val = false) :
    Running (demo rp sr tp pb q r) where
  topLevel := rfl
  initialised := rfl
  gie := rfl
  ok :=
    { readyIff := rfl
      busyIff := rfl
      bitsReceived := rfl
      bitsSent := rfl
      rxArmed := rfl
      txArmed := rfl
      rxOneShot := rfl
      txOneShot := rfl
      rxChannel := demoChan_ok _ _
      txChannel := demoChan_ok _ _
      txIdle := by
        intro h
        have h' : tp = .idle := h
        obtain ⟨rfl, rfl⟩ := h9 h'
        subst h'
        exact ⟨rfl, rfl, rfl⟩
      rxQuiet := h10
      rxFilled := h11
      pinLevel := rfl }

/-- The same state with the build's policies. -/
def withPolicies (f : FramingPolicy) (o : OverrunPolicy) (s : State) : State :=
  { s with cfg := { s.cfg with framing := f, overrun := o } }

/-- A running block with other policies is a running block. -/
theorem running_withPolicies {s : State} (f : FramingPolicy) (o : OverrunPolicy) (h : Running s) :
    Running (withPolicies f o s) :=
  { h with ok := { h.ok with rxChannel := { h.ok.rxChannel with }, txChannel := { h.ok.txChannel with } } }

/-- The state inside another operation. -/
def inside (s : State) : State := { s with nesting := .inside }

def idleIdle : State := demo .idle 0 .idle 0 none none
def rxStart : State := demo .startDetected 0 .idle 0 none none
def rxBit (i : Fin 8) (sr : Byte) : State := demo (.samplingBit i) sr .idle 0 none none
def rxStop (r : Option Byte) : State := demo .stopExpected 0x41 .idle 0 none r
def txStartBit : State := demo .idle 0 .sendingStart 0x41 none none
def txBit (i : Fin 8) : State := demo .idle 0 (.sendingBit i) 0x41 none none
def txStop (q : Option Byte) : State := demo .idle 0 .sendingStop 0x41 q none
def bothSides : State := demo .stopExpected 0x41 .sendingStop 0x41 (some 0x5D) none

theorem idleIdle_running : Running idleIdle := demo_running (by decide) (by decide) (by decide)
theorem rxStart_running : Running rxStart := demo_running (by decide) (by decide) (by decide)
theorem rxBit0_running : Running (rxBit 0 0) := demo_running (by decide) (by decide) (by decide)
theorem rxBit6_running : Running (rxBit 6 0x04) := demo_running (by decide) (by decide) (by decide)
theorem rxBit7_running : Running (rxBit 7 0x82) := demo_running (by decide) (by decide) (by decide)
theorem rxStop_running (r : Option Byte) : Running (rxStop r) :=
  demo_running (by decide) (by decide) (by decide)
theorem txStartBit_running : Running txStartBit := demo_running (by decide) (by decide) (by decide)
theorem txBit_running (i : Fin 8) : Running (txBit i) :=
  demo_running (fun h => by cases h) (by decide) (by decide)
theorem txStop_running (q : Option Byte) : Running (txStop q) :=
  demo_running (fun h => by cases h) (by decide) (by decide)
theorem bothSides_running : Running bothSides := demo_running (by decide) (by decide) (by decide)

/-- A check on the next state, false where the operation was refused. -/
def after (r : Result) (p : State → Bool) : Bool :=
  match r with
  | .next t => p t
  | .fault _ => false
  | .refused _ => false

/-- Whether an operation was refused for the given reason. -/
def refusedFor (r : Result) (e : Refusal) : Bool :=
  match r with
  | .next _ => false
  | .fault _ => false
  | .refused e' => decide (e' = e)

/-! ## Single steps, expected results from the spec's examples and vectors -/

/-- R165, V53. -/
theorem test_init : after (execInit State.reset) (fun t =>
    t.pin.tx && !t.pin.rxPrev && t.ctl.initialised && t.ctl.gie && decide (t.rx.phase = .idle)) = true := by
  decide
/-- V54. -/
theorem test_init_twice : refusedFor (execInit idleIdle) .reInit = true := by decide

/-- R160, V51. -/
theorem test_getc_byte : after (execGetc (demo .idle 0 .idle 0 none (some 0x41))) (fun t =>
    decide (t.outputs = [.getc (some 0x41)] ∧ t.mb.receivedByte = none) && !t.mb.receivedReady) = true := by decide
/-- V50. -/
theorem test_getc_empty : after (execGetc idleIdle) (fun t =>
    decide (t.outputs = [.getc none])) = true := by decide
/-- V51, R161: the store after a successful `GETC` writes `*out`, the store after a failed one keeps it. -/
theorem test_storeByte :
    after (step { idleIdle with input := [.storeByte], outputs := [.putc true, .getc (some 0x41)]
                                callerByte := 0x99 }) (fun t => decide (t.callerByte = 0x41)) = true ∧
    after (step { idleIdle with input := [.storeByte], outputs := [.getc none, .getc (some 0x41)]
                                callerByte := 0x99 }) (fun t => decide (t.callerByte = 0x99)) = true := by
  decide

/-- V40 operation 1. -/
theorem test_putc_from_rest : after (execPutc 0x41 idleIdle) (fun t =>
    decide (t.tx.phase = .sendingStart ∧ t.tx.pendingByte = 0x41 ∧ t.mb.transmitByte = none ∧
      t.tm.tx = ⟨true, false, 104, 104⟩ ∧ t.outputs = [.putc true]) && !t.pin.tx) = true := by decide
/-- V42 operation 3. -/
theorem test_putc_contention : after (execPutc 0x21 (txStop (some 0x5D))) (fun t =>
    decide (t.mb.transmitByte = some 0x5D ∧ t.outputs = [.putc false, .signal .transmitContention])) = true := by
  decide

/-- V10. -/
theorem test_arm : after (execArm .tx 104 (inside State.reset)) (fun t =>
    decide (t.tm.tx = ⟨true, false, 104, 104⟩)) = true := by decide
/-- V12: idempotent, even with another interval. -/
theorem test_arm_armed : after (execArm .tx 200 (inside (txBit 3))) (fun t =>
    decide (t.tm.tx = ⟨true, false, 1, 104⟩)) = true := by decide
/-- V16. -/
theorem test_disarm : after (execDisarm .rx (inside (rxBit 0 0))) (fun t =>
    decide (t.tm.rx = ⟨false, false, 0, 104⟩)) = true := by decide
/-- V54. -/
theorem test_disarm_topLevel : refusedFor (execDisarm .rx (rxBit 0 0)) .internalOnly = true := by decide
/-- V13: overrides a channel already armed. -/
theorem test_rearm1_overrides : after (execRearm1 .tx 7 (inside (txBit 3))) (fun t =>
    decide (t.tm.tx = ⟨true, true, 7, 104⟩)) = true := by decide
/-- V18, V2. -/
theorem test_rearm1_zero : refusedFor (execRearm1 .rx 0 (inside idleIdle)) .badInterval = true ∧
    refusedFor (execRearm1 .rx 0 idleIdle) .internalOnly = true := by decide
/-- V14, V15. -/
theorem test_fire : (fire .rx rxStart).tm.rx = ⟨false, false, 0, 104⟩ ∧
    (fire .tx (txBit 3)).tm.tx = ⟨true, false, 104, 104⟩ := by decide

/-- R140's example. -/
theorem test_txstart : after (execTxstart (inside
    { idleIdle with mb := ⟨none, false, some 0x41, true⟩ })) (fun t =>
    decide (t.tx.pendingByte = 0x41 ∧ t.mb.transmitByte = none ∧ t.tx.phase = .sendingStart ∧
      t.tm.tx.count = 104) && !t.pin.tx && !t.mb.transmitBusy) = true := by decide
/-- V44. -/
theorem test_txstart_nothing_queued : after (execTxstart (inside idleIdle)) (fun t =>
    decide (t = inside idleIdle)) = true := by decide

/-- V22 operation 1. -/
theorem test_edge : after (execEdge idleIdle) (fun t =>
    decide (t.rx.phase = .startDetected ∧ t.tm.rx = ⟨true, true, 52, 104⟩)) = true := by decide
/-- V27: an edge inside a frame. -/
theorem test_edge_in_frame : after (execEdge (rxBit 1 0x80)) (fun t =>
    decide (t = rxBit 1 0x80)) = true := by decide

/-- R124's example: `0x04` in `SamplingBit(6)` with a high sample gives `0x82`, 7, `SamplingBit(7)`. -/
theorem test_rxtick_data : after (execRxtick true (rxBit 6 0x04)) (fun t =>
    decide (t.rx = ⟨.samplingBit 7, 0x82, 7⟩ ∧ t.tm.rx = ⟨true, false, 104, 104⟩)) = true := by decide
/-- R126's example under `Discard`. -/
theorem test_rxtick_bad_stop : after (execRxtick false (rxStop none)) (fun t =>
    decide (t.mb.receivedByte = none ∧ t.rx = ⟨.idle, 0, 0⟩ ∧ t.tm.rx = ⟨false, false, 0, 104⟩) &&
      t.err.framing && !t.err.overrun) = true := by decide

/-- R143's example: bit 6 of `0x41` after `SendingBit(5)`. -/
theorem test_txtick_data : after (execTxtick (txBit 5)) (fun t =>
    decide (t.tx = ⟨.sendingBit 6, 0x41, 7⟩) && t.pin.tx) = true := by decide
/-- R146's example: a queued byte restarts the driver. -/
theorem test_txtick_restart : after (execTxtick (txStop (some 0x5D))) (fun t =>
    decide (t.tx = ⟨.sendingStart, 0x5D, 0⟩ ∧ t.mb.transmitByte = none) && !t.pin.tx &&
      !t.mb.transmitBusy) = true := by decide

/-- R180's example. -/
theorem test_clk_fires : after (execClk true (rxBit 0 0)) (fun t =>
    decide (t.rx = ⟨.samplingBit 1, 0x80, 1⟩ ∧ t.tm.rx.count = 104) && t.pin.rxPrev) = true := by decide
/-- V64: a low stop sample and a falling edge in one tick. -/
theorem test_clk_stop_and_edge : after (execClk false (rxStop none)) (fun t =>
    decide (t.rx.phase = .startDetected ∧ t.tm.rx = ⟨true, true, 52, 104⟩ ∧ t.mb.receivedByte = none) &&
      t.err.framing) = true := by decide

/-- R88, V2: an illegal word is refused by the step. -/
theorem test_step_illegal :
    refusedFor (step (State.reset.withFetchWord 32 0x18000000)) (.illegalOperation .channelBit) = true := by
  decide
/-- A delivered `INIT` is the first operation after power-on. -/
theorem test_step_init : after (step (State.reset.withFetchWord 32 0x10000000)) (fun t =>
    t.ctl.initialised && decide (t.input = [])) = true := by decide

/-- R90's examples of trace lines. -/
theorem test_trace_lines : traceLine .getc idleIdle = "GETC -> (false, -)" ∧
    traceLine (.putc 0x41) idleIdle = "PUTC 0x41 -> true" ∧
    traceLine (.disarm .tx) idleIdle = "DISARM TX -> refused(InternalOnly)" := by decide

/-! ## Witnesses: concrete values that meet the hypotheses of each statement, clause by clause -/

theorem witness_DecodeOfEncode : (Instr.arm .tx 65535).wellFormed = true ∧
    (Instr.rearm1 .rx 0).wellFormed = true := by decide
theorem witness_EncodeOfDecode : decode 0x4800FFFF#32 = .ok (.arm .tx 65535) := by decide
theorem witness_DecodeFollowsOpcodeTable : ∃ r ∈ opRows, r.spells 0x4800FFFF#32 = true := by decide
theorem witness_IllegalWordsRefused :
    ({ State.reset with input := [.op 0xC0000000#32] } : State).input = [.op 0xC0000000#32] ∧
    decode 0xC0000000#32 = .error .opcodeReserved := by decide
theorem witness_PhaseCodesNameThePhases : 11 ≤ (11#4).toNat ∧ 11 ≤ (15#4).toNat := by decide
theorem witness_FrameDecoding :
    (let s : Nat → Level := fun _ => true
     s 1 = true) ∧
    (let s : Nat → Level := fun k => frameCell 0x41 (k - 1)
     s 1 = false ∧ s 10 = true) ∧
    (let s : Nat → Level := fun _ => false
     s 1 = false ∧ s 10 = false) := by decide
theorem witness_StepRunsDecodedInstruction :
    ({ State.reset with input := [.op 0x10000000#32] } : State).input = .op 0x10000000#32 :: [] ∧
    decode 0x10000000#32 = .ok .init ∧ Instr.init.wellFormed = true := by decide
theorem witness_InvalidParametersNotBuilt :
    Config.build 9600 9600 .discard .dropNew = none ∧ Config.build 9600 0 .discard .dropNew = none ∧
    Config.build 65536 1 .deliver .overwrite = none ∧
    (Config.build 65535 1 .deliver .overwrite).isSome = true ∧ (Config.build 2 1 .deliver .overwrite).isSome = true ∧
    Config.build 1000000 9600 .discard .dropNew = some Config.reference ∧
    Instr.edge.context ≠ .internal := by decide
theorem witness_InitResetsEverything :
    State.reset.ctl.initialised = false ∧ idleIdle.ctl.initialised = true := by decide
theorem witness_OutsideTheLifecycle :
    State.reset.ctl.initialised = false ∧ idleIdle.ctl.initialised = true := by decide

/-- A state with a received byte waiting. -/
def waiting : State := demo .idle 0 .idle 0 none (some 0x31)
theorem waiting_running : Running waiting := demo_running (by decide) (by decide) (by decide)

theorem witness_GetcTakesReceivedByte :
    State.reset.ctl.initialised = false ∧
    (waiting.ctl.initialised = true ∧ waiting.mb.receivedReady = true ∧ waiting.mb.receivedByte = some 0x31) ∧
    (idleIdle.ctl.initialised = true ∧ idleIdle.mb.receivedReady = false) ∧
    after (exec .getc waiting) (fun _ => true) = true ∧
    after (exec (.rxtick true) (rxStop none)) (fun t => !(rxStop none).mb.receivedReady && t.mb.receivedReady) =
      true := by decide
theorem witness_CallerByteWrittenOnSuccess :
    after (exec .getc waiting) (fun _ => true) = true ∧
    ({ waiting with input := [.storeByte] } : State).input = .storeByte :: [] ∧
    (let s : State := { waiting with input := uartGetc }
     s.input = uartGetc ++ [] ∧ s.ctl.initialised = true ∧ s.mb.receivedReady = true ∧
       s.mb.receivedByte = some 0x31) ∧
    (let s : State := { idleIdle with input := uartGetc }
     s.input = uartGetc ++ [] ∧ s.ctl.initialised = true ∧ s.mb.receivedReady = false) ∧
    ((∀ i ∈ [Instr.putc 0x41, .edge], i ≠ .getc) ∧
      after (runOps [.putc 0x41, .edge] waiting) (fun _ => true) = true) := by decide
theorem witness_EmptySlotWithFlagCompletes :
    (let s : State := { idleIdle with mb := ⟨none, true, none, false⟩ }
     s.ctl.initialised = true ∧ s.mb.receivedReady = true ∧ s.mb.receivedByte = none) ∧
    (let s : State := inside { idleIdle with mb := ⟨none, false, none, true⟩ }
     s.nesting = .inside ∧ s.tx.phase = .idle ∧ s.mb.transmitBusy = true ∧
       s.mb.transmitByte = none ∧ s.tm.tx.armed = false) := by decide
theorem witness_PutcStartsQueuesOrFails :
    State.reset.ctl.initialised = false ∧
    (Running idleIdle ∧ idleIdle.tx.phase = .idle) ∧
    ((txBit 7).ctl.initialised = true ∧ (txBit 7).tx.phase ≠ .idle ∧ (txBit 7).mb.transmitBusy = false) ∧
    ((txStop (some 0x5D)).ctl.initialised = true ∧ (txStop (some 0x5D)).mb.transmitBusy = true) :=
  ⟨by decide, ⟨idleIdle_running, rfl⟩, by decide, by decide⟩

theorem witness_ArmStartsDisarmedChannel :
    (inside idleIdle).nesting = .inside ∧ ((inside idleIdle).chan .tx).armed = false ∧
    (inside (txBit 0)).nesting = .inside ∧ ((inside (txBit 0)).chan .tx).armed = true ∧
    (0 < 1 ∧ 2 ^ 16 - 1 < 65536) ∧ (1 ≤ 65535 ∧ 65535 ≤ 2 ^ 16 - 1) := by decide
theorem witness_DisarmStopsChannel :
    ((inside idleIdle).nesting = .inside ∧
      (inside idleIdle).chan .rx = ⟨false, false, 0, ((inside idleIdle).chan .rx).period⟩) ∧
    after (exec (.disarm .rx) (inside idleIdle)) (fun _ => true) = true ∧
    (idleIdle.ctl.initialised = true ∧ idleIdle.tm.rx.armed = false ∧ idleIdle.tm.tx.armed = false) ∧
    after (exec (.clk true) idleIdle) (fun _ => true) = true ∧
    after (exec (.putc 0) idleIdle) (fun t => !(idleIdle.chan .tx).armed && (t.chan .tx).armed) = true ∧
    after (exec (.clk false) idleIdle) (fun t => !(idleIdle.chan .rx).armed && (t.chan .rx).armed) = true := by
  decide
theorem witness_Rearm1SchedulesOneFiring :
    (inside idleIdle).nesting = .inside ∧ (0 < 1 ∧ 2 ^ 16 - 1 < 65536) ∧ (1 ≤ 1 ∧ 65535 ≤ 2 ^ 16 - 1) ∧
    after (exec (.rearm1 .rx 1) (inside idleIdle)) (fun _ => true) = true := by decide
theorem witness_TimerOperationsFrame :
    after (exec (.disarm .rx) (inside idleIdle)) (fun _ => true) = true ∧
    after (exec (.arm .rx 1) (inside idleIdle)) (fun _ => true) = true ∧
    after (exec (.rearm1 .tx 65535) (inside idleIdle)) (fun _ => true) = true ∧ Chan.rx ≠ Chan.tx := by decide
theorem witness_BadIntervalsRefused : (inside idleIdle).nesting = .inside ∧
    (Instr.clk false).context ≠ .internal := by decide
theorem witness_SubOperationsRefusedAtTopLevel :
    idleIdle.nesting = .topLevel ∧ Instr.txstart.context = .internal ∧
    (Instr.arm .rx 0).context = .internal := by decide
theorem witness_FiringStep :
    (rxStart.chan .rx).oneShot = true ∧ ((txBit 0).chan .tx).oneShot = false ∧
    (idleIdle.ctl.initialised = true ∧ idleIdle.tm.rx.armed = false ∧ idleIdle.tm.tx.armed = false) := by decide
theorem witness_EdgeStartsReception :
    (idleIdle.ctl.initialised = true ∧ idleIdle.ctl.gie = true ∧
      idleIdle.rx.phase = .idle) ∧
    (State.reset.ctl.initialised = false ∧ State.reset.ctl.gie = false ∧ rxStart.rx.phase ≠ .idle) := by decide
theorem witness_StartBitValidated : Running rxStart ∧ rxStart.rx.phase = .startDetected :=
  ⟨rxStart_running, rfl⟩
theorem witness_DataBitSampled :
    (Running (rxBit 0 0) ∧ (rxBit 0 0).rx.phase = .samplingBit 0) ∧
    (Running (rxBit 7 0x82) ∧ (rxBit 7 0x82).rx.phase = .samplingBit 7) :=
  ⟨⟨rxBit0_running, rfl⟩, ⟨rxBit7_running, rfl⟩⟩
theorem witness_AccumulatorAfterSamples : 0 ≤ 8 ∧ 8 ≤ 8 := by decide
theorem witness_StopBitEndsFrame :
    (Running (rxStop none) ∧ (rxStop none).rx.phase = .stopExpected ∧ (rxStop none).mb.receivedReady = false ∧
      (rxStop none).cfg.framing = .discard) ∧
    (∀ (f : FramingPolicy) (o : OverrunPolicy) (r : Option Byte),
      let s := withPolicies f o (rxStop r)
      Running s ∧ s.rx.phase = .stopExpected ∧ s.mb.receivedReady = r.isSome ∧ s.cfg.framing = f ∧
        s.cfg.overrun = o) :=
  ⟨⟨rxStop_running none, rfl, rfl, rfl⟩,
   fun f o r => ⟨running_withPolicies f o (rxStop_running r), rfl, rfl, rfl, rfl⟩⟩
theorem witness_DepositByPolicy :
    idleIdle.mb.receivedReady = false ∧
    (waiting.mb.receivedReady = true ∧ waiting.cfg.overrun = .dropNew) ∧
    ((withPolicies .discard .overwrite waiting).mb.receivedReady = true ∧
      (withPolicies .discard .overwrite waiting).cfg.overrun = .overwrite) := by decide
theorem witness_ReceiveTransitionTable :
    after (exec .edge idleIdle) (fun _ => true) = true ∧
    after (exec (.rxtick false) (rxStop none)) (fun _ => true) = true ∧
    (Running idleIdle ∧ idleIdle.rx.phase = .idle) :=
  ⟨by decide, by decide, idleIdle_running, rfl⟩
theorem witness_ReceptionDecodesFrame : Running idleIdle ∧ idleIdle.rx.phase = .idle ∧
    decodeFrame (fun _ => true) = .falseStart ∧
    decodeFrame (fun k => frameCell 0xFF (k - 1)) = .byte 0xFF ∧
    decodeFrame (fun _ => false) = .badStop 0x00 :=
  ⟨idleIdle_running, rfl, by decide, by decide, by decide⟩

theorem witness_TxstartWithdrawsByte :
    (let s : State := inside { idleIdle with mb := ⟨none, false, some 0x41, true⟩ }
     s.nesting = .inside ∧ s.tx.phase = .idle ∧ s.mb.transmitBusy = true ∧
       s.mb.transmitByte = some 0x41 ∧ s.tm.tx.armed = false) ∧
    ((inside idleIdle).nesting = .inside ∧ (inside idleIdle).mb.transmitBusy = false) ∧
    ((inside (txBit 3)).nesting = .inside ∧ (inside (txBit 3)).tx.phase ≠ .idle) := by decide
theorem witness_TxtickSendsNextBit :
    (Running txStartBit ∧ txStartBit.tx.phase = .sendingStart) ∧
    (Running (txBit 0) ∧ (txBit 0).tx.phase = .sendingBit 0) ∧
    (Running (txBit 6) ∧ (txBit 6).tx.phase = .sendingBit 6) ∧
    (Running (txBit 7) ∧ (txBit 7).tx.phase = .sendingBit 7) :=
  ⟨⟨txStartBit_running, rfl⟩, ⟨txBit_running 0, rfl⟩, ⟨txBit_running 6, rfl⟩, ⟨txBit_running 7, rfl⟩⟩
theorem witness_StopBitEndsOrRestarts :
    (Running (txStop none) ∧ (txStop none).tx.phase = .sendingStop ∧ (txStop none).mb.transmitBusy = false) ∧
    (Running (txStop (some 0x5D)) ∧ (txStop (some 0x5D)).tx.phase = .sendingStop ∧
      (txStop (some 0x5D)).mb.transmitBusy = true ∧ (txStop (some 0x5D)).mb.transmitByte = some 0x5D) :=
  ⟨⟨txStop_running none, rfl, rfl⟩, ⟨txStop_running _, rfl, rfl, rfl⟩⟩
theorem witness_TransmitTransitionTable :
    after (exec .txtick (txBit 7)) (fun _ => true) = true ∧
    after (exec (.putc 0) idleIdle) (fun _ => true) = true ∧
    (Running (txStop none) ∧ (txStop none).tx.phase = .sendingStop) ∧
    (Running idleIdle ∧ idleIdle.tx.phase = .idle) :=
  ⟨by decide, by decide, ⟨txStop_running none, rfl⟩, idleIdle_running, rfl⟩
theorem witness_TransmittedWaveform : Running idleIdle ∧ idleIdle.tx.phase = .idle ∧ 0 ≤ 9 ∧ 9 ≤ 9 :=
  ⟨idleIdle_running, rfl, by decide, by decide⟩
theorem witness_BackToBackFrames : Running idleIdle ∧ idleIdle.tx.phase = .idle ∧ 9 ≤ 9 :=
  ⟨idleIdle_running, rfl, by decide⟩

/-- A running block at rest whose channels have more than one tick to go, with a frame each way. -/
def counting : State :=
  { bothSides with tm := { rx := { bothSides.tm.rx with count := 104 }, tx := { bothSides.tm.tx with count := 2 } } }

theorem counting_running : Running counting :=
  { bothSides_running with
    ok := { bothSides_running.ok with
            rxChannel := ⟨by decide, by decide, by decide⟩
            txChannel := ⟨by decide, by decide, by decide⟩ } }

theorem witness_QuietTickCountsDown :
    State.reset.ctl.initialised = false ∧
    (counting.ctl.initialised = true ∧ (counting.tm.tx.armed = true → 1 < counting.tm.tx.count.toNat) ∧
      (counting.tm.rx.armed = true → 1 < counting.tm.rx.count.toNat) ∧
      ¬(counting.pin.rxPrev = true ∧ true = false)) := by decide
theorem witness_TickPerformsTheOperationsInOrder :
    State.reset.ctl.initialised = false ∧ Running bothSides ∧ Running counting :=
  ⟨rfl, bothSides_running, counting_running⟩
theorem reset_poweredOn : PoweredOn State.reset :=
  ⟨rfl, rfl, rfl, rfl, rfl⟩
theorem witness_EdgeDetector :
    (Running idleIdle ∧ idleIdle.rx.phase = .idle ∧ after (exec (.clk false) idleIdle) (fun _ => true) = true) ∧
    (Running counting ∧ after (exec (.clk false) counting) (fun _ => true) = true) ∧
    (PoweredOn State.reset ∧
      after (exec .init State.reset) (fun t => after (exec (.clk false) t) (fun _ => true)) = true) :=
  ⟨⟨idleIdle_running, rfl, by decide⟩, ⟨counting_running, by decide⟩, reset_poweredOn, by decide⟩
theorem witness_StopSampleAndEdgeInOneTick :
    Running (rxStop none) ∧ (rxStop none).rx.phase = .stopExpected ∧ (rxStop none).tm.rx.count = 1 ∧
      (rxStop none).pin.rxPrev = true :=
  ⟨rxStop_running none, rfl, rfl, rfl⟩
theorem witness_FiringsCommute :
    Running bothSides ∧ bothSides.tm.rx.armed = true ∧ bothSides.tm.tx.armed = true :=
  ⟨bothSides_running, rfl, rfl⟩
theorem witness_ChannelFiresAfterItsCount :
    (Running bothSides ∧ bothSides.tm.tx.armed = true ∧ bothSides.tm.tx.count.toNat = 1 ∧ 0 < 1) ∧
    (Running counting ∧ counting.tm.tx.armed = true ∧ counting.tm.tx.count.toNat = 2 ∧ 1 < 2) :=
  ⟨⟨bothSides_running, rfl, rfl, by decide⟩, ⟨counting_running, rfl, rfl, by decide⟩⟩
theorem witness_TimedTransmission :
    Running idleIdle ∧ idleIdle.tx.phase = .idle ∧
    after (exec (.putc 0x41) idleIdle) (fun _ => true) = true ∧
    (9 ≤ 9 ∧ 9 * idleIdle.cfg.bitPeriod ≤ 1039 ∧ 1039 < (9 + 1) * idleIdle.cfg.bitPeriod) :=
  ⟨idleIdle_running, rfl, by decide, by decide⟩
theorem witness_TimedReception :
    Running idleIdle ∧ idleIdle.rx.phase = .idle ∧ idleIdle.pin.rxPrev = true ∧
    idleIdle.mb.receivedReady = false ∧
    (let line : Nat → Level := fun n => decide (104 ≤ n)
     line 0 = false ∧ line idleIdle.cfg.halfBit = false ∧
       line (idleIdle.cfg.halfBit + 9 * idleIdle.cfg.bitPeriod) = true) :=
  ⟨idleIdle_running, rfl, rfl, rfl, by decide⟩
theorem witness_LoopbackRoundTrip :
    Running idleIdle ∧ idleIdle.tx.phase = .idle ∧ idleIdle.rx.phase = .idle ∧ idleIdle.pin.rxPrev = true ∧
    idleIdle.mb.receivedReady = false ∧ after (exec (.putc 0xFF) idleIdle) (fun _ => true) = true :=
  ⟨idleIdle_running, rfl, rfl, rfl, rfl, by decide⟩

theorem witness_StepKeepsInvariant :
    Inv (State.reset.withFetchWord 32 0x10000000) ∧
    after (step (State.reset.withFetchWord 32 0x10000000)) (fun _ => true) = true ∧
    Inv (idleIdle.withFetchWord 32 0x30000041) ∧
    after (step (idleIdle.withFetchWord 32 0x30000041)) (fun _ => true) = true :=
  ⟨.inl { reset_poweredOn with }, by decide,
   .inr { idleIdle_running with ok := { idleIdle_running.ok with
     rxChannel := { idleIdle_running.ok.rxChannel with }
     txChannel := { idleIdle_running.ok.txChannel with } } }, by decide⟩
theorem witness_InitEstablishesInvariant : PoweredOn State.reset := reset_poweredOn
theorem witness_NothingHappensBeforeInit :
    PoweredOn State.reset ∧ Instr.clk false ≠ .init ∧
    after (exec (.clk false) State.reset) (fun _ => true) = true :=
  ⟨reset_poweredOn, by decide, by decide⟩
theorem witness_RefusalsExactly : Inv State.reset ∧ Inv idleIdle :=
  ⟨.inl reset_poweredOn, .inr idleIdle_running⟩
theorem witness_InterruptEventsComplete :
    (Running rxStart ∧ rxStart.rx.phase ≠ .idle) ∧ (Running txStartBit ∧ txStartBit.tx.phase ≠ .idle) :=
  ⟨⟨rxStart_running, by decide⟩, ⟨txStartBit_running, by decide⟩⟩
theorem witness_OwnershipOfState :
    after (exec .init State.reset) (fun t => decide (t.ctl ≠ State.reset.ctl)) = true ∧
    after (exec (.clk false) counting) (fun t => decide (t.pin.rxPrev ≠ counting.pin.rxPrev)) = true ∧
    after (exec (.rxtick false) (rxStop none)) (fun t => decide (t.err ≠ (rxStop none).err)) = true ∧
    after (exec .getc waiting) (fun _ => true) = true ∧
    (after (exec (.putc 0x21) (txStop (some 0x5D))) (fun _ => true) = true ∧
      (txStop (some 0x5D)).mb.transmitBusy = true) ∧
    (after (exec .txstart (inside (txBit 3))) (fun _ => true) = true ∧ (txBit 3).tx.phase ≠ .idle) ∧
    (after (exec .txstart (inside idleIdle)) (fun _ => true) = true ∧ idleIdle.mb.transmitBusy = false) := by
  decide
theorem witness_MailboxReach :
    after (exec .getc waiting) (fun t => decide (t.mb.receivedByte ≠ waiting.mb.receivedByte)) = true ∧
    after (exec .txtick (txStop (some 0x5D))) (fun t => decide (t.mb.transmitByte ≠ some 0x5D)) = true := by
  decide
theorem witness_ErrorFlagsSticky :
    after (exec (.rxtick false) (rxStop none)) (fun t => !(rxStop none).err.framing && t.err.framing) = true ∧
    after (exec (.rxtick true) (rxStop (some 0x31))) (fun t => !(rxStop none).err.overrun && t.err.overrun) = true ∧
    after (exec .getc { waiting with err := ⟨true, true⟩ }) (fun _ => true) = true ∧
    Instr.getc ≠ .init ∧ Instr.rxtick false ≠ .init := by decide
theorem witness_DiagnosticStateReadByNoOperation :
    after (exec .getc waiting) (fun _ => true) = true ∧ refusedFor (exec .init waiting) .reInit = true := by decide
theorem witness_DirectionsIndependent :
    after (exec .edge idleIdle) (fun _ => true) = true ∧
    after (exec .txtick (txBit 0)) (fun _ => true) = true ∧ Running (txBit 0) ∧
    after (exec .getc waiting) (fun _ => true) = true ∧ Running waiting :=
  ⟨by decide, by decide, txBit_running 0, by decide, waiting_running⟩
theorem witness_WaitingByteKeptUnderDropNew :
    after (exec (.rxtick true) (rxStop (some 0x31))) (fun _ => true) = true ∧
    (rxStop (some 0x31)).cfg.overrun = .dropNew ∧ (rxStop (some 0x31)).mb.receivedReady = true ∧
    Instr.rxtick true ≠ .init ∧ Instr.rxtick true ≠ .getc := by decide
theorem witness_PowerIdleAndWake :
    Running idleIdle ∧ powerIdle idleIdle = true ∧
    after (exec .edge idleIdle) (fun t => !powerIdle t) = true ∧
    after (exec (.putc 0) idleIdle) (fun t => !powerIdle t) = true ∧
    after (exec (.clk false) idleIdle) (fun t => !powerIdle t) = true :=
  ⟨idleIdle_running, by decide, by decide, by decide, by decide⟩
theorem witness_NoByteWithoutAnEdge :
    Running idleIdle ∧ idleIdle.rx.phase = .idle ∧ idleIdle.mb.receivedReady = false ∧
    (∀ i ∈ [Instr.getc, .putc 0x41, .txtick, .clk true],
      i = .getc ∨ i = .txtick ∨ i = .clk true ∨ ∃ b, i = .putc b) ∧
    after (runOps [.getc, .putc 0x41, .txtick, .clk true] idleIdle) (fun _ => true) = true :=
  ⟨idleIdle_running, rfl, rfl, by simp, by decide⟩

end Sys2Proof.Tests
end

section
/-! What a completed operation can have done, and why one was refused: one lemma for each shared operation. -/

namespace Sys2Proof.Machine

variable {s t u : State} {c : Chan} {p : Nat} {l : Level} {b : Byte} {e : Refusal}

/-! ## What a completed operation can have done -/

/-- A sub-operation completes exactly inside another operation, with its own effect (R105). -/
theorem onlyInside_eq_next {body : State → Result} :
    onlyInside body s = .next t ↔ s.nesting = .inside ∧ body s = .next t := by
  cases h : s.nesting <;> simp [onlyInside, h]

/-- Everything a completed `REARM1` can have done (R103). -/
theorem rearm1_cases (h : rearm1 c p s = .next t) :
    intervalOk p = true ∧
      t = setChan c { s.chan c with armed := true, oneShot := true, count := ticksOf p } s := by
  cases hp : intervalOk p with
  | true => rw [rearm1_ok hp] at h; cases h; exact ⟨rfl, rfl⟩
  | false => rw [rearm1_bad hp] at h; cases h

/-- Everything a completed `DISARM` can have done (R102). -/
theorem execDisarm_cases (h : execDisarm c s = .next t) : s.nesting = .inside ∧ t = disarm c s := by
  obtain ⟨hin, ht⟩ := onlyInside_eq_next.1 h
  cases ht
  exact ⟨hin, rfl⟩

/-- Everything a completed `INIT` can have done (R165, R166). -/
theorem execInit_cases (h : execInit s = .next t) :
    s.ctl.initialised = false ∧ t = initialise s := by
  cases hi : s.ctl.initialised with
  | true => simp [execInit, hi] at h
  | false => exact ⟨rfl, by simpa [execInit, hi] using h.symm⟩

/-- Everything a completed `GETC` can have done (R160). -/
theorem execGetc_cases (h : execGetc s = .next t) :
    s.ctl.initialised = true ∧
      ((s.mb.receivedReady = true ∧ t = takeReceived s) ∨
       (s.mb.receivedReady = false ∧ t = emit (.getc none) s)) := by
  cases hi : s.ctl.initialised with
  | false => simp [execGetc, hi] at h
  | true =>
    cases hr : s.mb.receivedReady with
    | true => exact ⟨rfl, .inl ⟨rfl, by simpa [execGetc, hi, hr] using h.symm⟩⟩
    | false => exact ⟨rfl, .inr ⟨rfl, by simpa [execGetc, hi, hr] using h.symm⟩⟩

/-- Everything a completed `PUTC` can have done (R162): the byte is turned away, or it is stored and the
driver woken. -/
theorem execPutc_cases (h : execPutc b s = .next t) :
    s.ctl.initialised = true ∧
      ((s.mb.transmitBusy = true ∧ t = emit (.putc false) (signal .transmitContention s)) ∨
       (s.mb.transmitBusy = false ∧
        ∃ u, txStart (setTransmitBusy true (memWrite .transmit (some b) s)) = .next u ∧
          t = emit (.putc true) u)) := by
  cases hi : s.ctl.initialised with
  | false => simp [execPutc, hi] at h
  | true =>
    cases hb : s.mb.transmitBusy with
    | true => exact ⟨rfl, .inl ⟨rfl, by simpa [execPutc, hi, hb] using h.symm⟩⟩
    | false =>
      simp only [execPutc, hi, hb, if_true, Bool.false_eq_true, if_false] at h
      obtain ⟨u, hu, ht⟩ := andThen_eq_next.1 h
      exact ⟨rfl, .inr ⟨rfl, u, hu, by simpa using ht.symm⟩⟩

/-- Everything a completed `TXSTART` can have done (R140). -/
theorem txStart_cases (h : txStart s = .next t) :
    (¬(s.tx.phase = .idle ∧ s.mb.transmitBusy = true) ∧ t = s) ∨
    ((s.tx.phase = .idle ∧ s.mb.transmitBusy = true) ∧
      arm .tx s.cfg.bitPeriod (withdraw s) = .next t) := by
  by_cases hq : s.tx.phase = .idle ∧ s.mb.transmitBusy = true
  · rw [txStart, if_pos hq] at h
    exact .inr ⟨hq, h⟩
  · rw [txStart_idle hq] at h
    cases h
    exact .inl ⟨hq, rfl⟩

/-- Everything a completed transmit handler body can have done (R142, R143, R144, R146). -/
theorem txBody_cases (h : txBody s = .next t) :
    (s.tx.phase = .sendingStart ∧ t = txStartBitEnd s) ∨
    (∃ i, s.tx.phase = .sendingBit i ∧ t = txDataBitEnd i s) ∨
    (s.tx.phase = .sendingStop ∧ txStopBitEnd s = .next t) := by
  cases hp : s.tx.phase with
  | idle => simp [txBody, hp] at h
  | sendingStart => exact .inl ⟨rfl, by simpa [txBody, hp] using h.symm⟩
  | sendingBit i => exact .inr (.inl ⟨i, rfl, by simpa [txBody, hp] using h.symm⟩)
  | sendingStop => exact .inr (.inr ⟨rfl, by simpa [txBody, hp] using h⟩)

/-- A completed transmit firing is its handler body, after `Fire(TX)` (R141). -/
theorem txTickHandler_cases (h : txTickHandler s = .next t) :
    s.ctl.initialised = true ∧ s.tm.tx.armed = true ∧ txBody (fire .tx s) = .next t := by
  cases hi : s.ctl.initialised with
  | false => simp [txTickHandler, hi] at h
  | true =>
    cases ha : s.tm.tx.armed with
    | false => simp [txTickHandler, hi, ha] at h
    | true => exact ⟨rfl, rfl, by simpa [txTickHandler, hi, ha] using h⟩

/-- Everything a completed receive handler body can have done (R122, R124, R126). -/
theorem rxBody_cases (h : rxBody l s = .next t) :
    (s.rx.phase = .startDetected ∧ l = true ∧
      t = disarm .rx (setRx { s.rx with phase := .idle } (signal .falseStart s))) ∨
    (s.rx.phase = .startDetected ∧ l = false ∧
      arm .rx s.cfg.bitPeriod (setRx { s.rx with phase := .samplingBit 0 } s) = .next t) ∨
    (∃ i, s.rx.phase = .samplingBit i ∧ t = rxDataBody i l s) ∨
    (s.rx.phase = .stopExpected ∧ t = rxStopBody l s) := by
  cases hp : s.rx.phase with
  | idle => simp [rxBody, hp] at h
  | startDetected =>
    cases l with
    | true => exact .inl ⟨rfl, rfl, by simpa [rxBody, rxStartBody, hp] using h.symm⟩
    | false => exact .inr (.inl ⟨rfl, rfl, by simpa [rxBody, rxStartBody, hp] using h⟩)
  | samplingBit i => exact .inr (.inr (.inl ⟨i, rfl, by simpa [rxBody, hp] using h.symm⟩))
  | stopExpected => exact .inr (.inr (.inr ⟨rfl, by simpa [rxBody, hp] using h.symm⟩))

/-- A completed receive firing is its handler body, after `Fire(RX)` (R121). -/
theorem rxTickHandler_cases (h : rxTickHandler l s = .next t) :
    s.ctl.initialised = true ∧ s.tm.rx.armed = true ∧ rxBody l (fire .rx s) = .next t := by
  cases hi : s.ctl.initialised with
  | false => simp [rxTickHandler, hi] at h
  | true =>
    cases ha : s.tm.rx.armed with
    | false => simp [rxTickHandler, hi, ha] at h
    | true => exact ⟨rfl, rfl, by simpa [rxTickHandler, hi, ha] using h⟩

/-! ## Why an operation was refused -/

/-- An operation in two parts is refused exactly when its first part is, or its second after it. -/
theorem andThen_eq_refused {r : Result} {k : State → Result} :
    andThen r k = .refused e ↔ r = .refused e ∨ ∃ u, r = .next u ∧ k u = .refused e := by
  cases r with
  | next u => simp [andThen]
  | fault f => cases f
  | refused e' => simp [andThen]

/-- An `ARM` of the block's own interval completes (R104). -/
theorem arm_bitPeriod_completes (c : Chan) (g : Config) (s : State) :
    ∃ t, arm c g.bitPeriod s = .next t := by
  cases ha : (s.chan c).armed with
  | true => exact ⟨_, arm_armed (intervalOk_bitPeriod g) ha⟩
  | false => exact ⟨_, arm_disarmed (intervalOk_bitPeriod g) ha⟩

/-- `TXSTART`, performed inside another operation, completes in every state (R140). -/
theorem txStart_completes (s : State) : ∃ t, txStart s = .next t := by
  by_cases hq : s.tx.phase = .idle ∧ s.mb.transmitBusy = true
  · rw [txStart, if_pos hq]
    exact arm_bitPeriod_completes _ _ _
  · exact ⟨s, txStart_idle hq⟩

/-- The end of a stop bit completes in every state (R146). -/
theorem txStopBitEnd_completes (s : State) : ∃ t, txStopBitEnd s = .next t := txStart_completes _

/-- The edge interrupt completes in every state (R120). -/
theorem edgeHandler_completes (s : State) : ∃ t, edgeHandler s = .next t := by
  cases he : edgeEnable s with
  | true => exact ⟨_, edgeHandler_enabled he⟩
  | false => exact ⟨_, edgeHandler_disabled he⟩

/-- Only an idle transmitter refuses a handler body (R141). -/
theorem txBody_refused (h : txBody s = .refused e) : s.tx.phase = .idle ∧ e = .unreachable := by
  cases hp : s.tx.phase with
  | idle => simpa [txBody, hp, eq_comm] using h
  | sendingStart => simp [txBody, hp] at h
  | sendingBit i => simp [txBody, hp] at h
  | sendingStop =>
    obtain ⟨t, ht⟩ := txStopBitEnd_completes s
    simp [txBody, hp, ht] at h

/-- Only an idle receiver refuses a handler body (R121). -/
theorem rxBody_refused (h : rxBody l s = .refused e) : s.rx.phase = .idle ∧ e = .unreachable := by
  cases hp : s.rx.phase with
  | idle => simpa [rxBody, hp, eq_comm] using h
  | startDetected =>
    obtain ⟨t, ht⟩ := arm_bitPeriod_completes .rx s.cfg (setRx { s.rx with phase := .samplingBit 0 } s)
    cases l <;> simp [rxBody, rxStartBody, hp, ht] at h
  | samplingBit i => simp [rxBody, hp] at h
  | stopExpected => simp [rxBody, hp] at h

/-- `Fire(c)` leaves both sequencers (R106). -/
@[simp] theorem fire_rx (c : Chan) (s : State) : (fire c s).rx = s.rx := by
  obtain ⟨v, hv⟩ := fire_frame c s
  simp [hv]

@[simp] theorem fire_tx (c : Chan) (s : State) : (fire c s).tx = s.tx := by
  obtain ⟨v, hv⟩ := fire_frame c s
  simp [hv]

/-- The refusals of a transmit firing (R106, R141, R166). -/
theorem txTickHandler_refused (h : txTickHandler s = .refused e) :
    (s.ctl.initialised = false ∧ e = .notInitialised) ∨
    (s.ctl.initialised = true ∧ s.tm.tx.armed = false ∧ e = .spuriousTick) ∨
    (s.ctl.initialised = true ∧ s.tm.tx.armed = true ∧ s.tx.phase = .idle ∧ e = .unreachable) := by
  cases hi : s.ctl.initialised with
  | false => exact .inl ⟨rfl, by simpa [txTickHandler, hi, eq_comm] using h⟩
  | true =>
    cases ha : s.tm.tx.armed with
    | false => exact .inr (.inl ⟨rfl, rfl, by simpa [txTickHandler, hi, ha, eq_comm] using h⟩)
    | true =>
      simp only [txTickHandler, hi, ha, if_true] at h
      exact .inr (.inr ⟨rfl, rfl, by simpa using txBody_refused h⟩)

/-- The refusals of a receive firing (R106, R121, R166). -/
theorem rxTickHandler_refused (h : rxTickHandler l s = .refused e) :
    (s.ctl.initialised = false ∧ e = .notInitialised) ∨
    (s.ctl.initialised = true ∧ s.tm.rx.armed = false ∧ e = .spuriousTick) ∨
    (s.ctl.initialised = true ∧ s.tm.rx.armed = true ∧ s.rx.phase = .idle ∧ e = .unreachable) := by
  cases hi : s.ctl.initialised with
  | false => exact .inl ⟨rfl, by simpa [rxTickHandler, hi, eq_comm] using h⟩
  | true =>
    cases ha : s.tm.rx.armed with
    | false => exact .inr (.inl ⟨rfl, rfl, by simpa [rxTickHandler, hi, ha, eq_comm] using h⟩)
    | true =>
      simp only [rxTickHandler, hi, ha, if_true] at h
      exact .inr (.inr ⟨rfl, rfl, by simpa using rxBody_refused h⟩)

/-- A channel step of `CLK` is refused only by the handler it performs (R180). -/
theorem clockChan_refused {k : State → Result} (h : clockChan c k s = .refused e) :
    k (countDown c s) = .refused e := by
  cases ha : (s.chan c).armed with
  | false => rw [clockChan_disarmed ha] at h; cases h
  | true =>
    by_cases hc : (s.chan c).count = 1
    · rwa [clockChan_fires ha hc] at h
    · rw [clockChan_counts ha hc] at h; cases h

/-- The edge step of `CLK` completes in every state (R180). -/
theorem clockEdge_completes (l : Level) (s : State) : ∃ t, clockEdge l s = .next t := by
  cases hf : fallingEdge l s with
  | false => exact ⟨setRxPrev l s, by simp [clockEdge, hf]⟩
  | true =>
    obtain ⟨u, hu⟩ := edgeHandler_completes s
    exact ⟨setRxPrev l u, by simp [clockEdge, hf, hu]⟩

/-- `CLK` is refused only by a firing it performs (R180). -/
theorem execClk_refused (h : execClk l s = .refused e) :
    ∃ u, txTickHandler u = .refused e ∨ rxTickHandler l u = .refused e := by
  cases hi : s.ctl.initialised with
  | false => rw [execClk_before_init hi] at h; cases h
  | true =>
    rw [execClk_running hi] at h
    obtain htx | ⟨u, -, h⟩ := andThen_eq_refused.1 h
    · exact ⟨_, .inl (clockChan_refused htx)⟩
    · obtain hrx | ⟨v, -, h⟩ := andThen_eq_refused.1 h
      · exact ⟨_, .inr (clockChan_refused hrx)⟩
      · obtain ⟨t, ht⟩ := clockEdge_completes l v
        rw [ht] at h
        cases h

/-- `PUTC` is refused only before `INIT` (R162, R166). -/
theorem execPutc_refused (h : execPutc b s = .refused e) :
    s.ctl.initialised = false ∧ e = .notInitialised := by
  cases hi : s.ctl.initialised with
  | false => simpa [execPutc, hi, eq_comm] using h
  | true =>
    obtain ⟨u, hu⟩ := txStart_completes (setTransmitBusy true (memWrite .transmit (some b) s))
    cases hb : s.mb.transmitBusy <;> simp [execPutc, hi, hb, hu] at h

end Sys2Proof.Machine
end

section
/-! Building a block with valid parameters, and the interval test (R8, R104). -/

namespace Sys2Proof

/-- A valid parameter set has its bit period in `2..2^16 - 1` (R8). -/
theorem Config.validParameters_iff {f b : Nat} :
    Config.validParameters f b = true ↔ 2 ≤ f / b ∧ f / b ≤ 2 ^ 16 - 1 :=
  decide_eq_true_iff

/-- A set is refused exactly when it is invalid (R8). -/
theorem Config.build_eq_none_iff {f b : Nat} {p : FramingPolicy} {q : OverrunPolicy} :
    Config.build f b p q = none ↔ ¬(2 ≤ f / b ∧ f / b ≤ 2 ^ 16 - 1) := by
  rw [← Config.validParameters_iff]
  by_cases hv : Config.validParameters f b = true <;> simp [Config.build, hv]

/-- A set that can be built is built as given (R8). -/
theorem Config.build_eq_some {f b : Nat} {p : FramingPolicy} {q : OverrunPolicy} {g : Config}
    (h : Config.build f b p q = some g) :
    g.fClk = f ∧ g.baud = b ∧ g.framing = p ∧ g.overrun = q := by
  by_cases hv : Config.validParameters f b = true
  · simp only [Config.build, dif_pos hv, Option.some.injEq] at h
    subst h
    exact ⟨rfl, rfl, rfl, rfl⟩
  · simp [Config.build, hv] at h

namespace Machine

/-- No operation that an agent issues fails the test of an interval (R8, R104). -/
theorem exec_ne_badInterval {i : Instr} (hi : i.context ≠ .internal) (s : State) :
    exec i s ≠ .refused .badInterval := by
  have htx (u : State) : txTickHandler u ≠ .refused .badInterval := fun h => by
    simpa using txTickHandler_refused h
  have hrx (l : Level) (u : State) : rxTickHandler l u ≠ .refused .badInterval := fun h => by
    simpa using rxTickHandler_refused h
  intro h
  cases i with
  | init => simp only [exec, execInit] at h; split at h <;> cases h
  | getc =>
    simp only [exec, execGetc] at h
    (repeat' split at h) <;> cases h
  | putc b => cases (execPutc_refused h).2
  | arm c p => exact hi rfl
  | disarm c => exact hi rfl
  | rearm1 c d => exact hi rfl
  | txstart => exact hi rfl
  | edge =>
    obtain ⟨t, ht⟩ := edgeHandler_completes s
    cases ht.symm.trans h
  | rxtick l => exact hrx l s h
  | txtick => exact htx s h
  | clk l =>
    obtain ⟨u, hu | hu⟩ := execClk_refused h
    · exact htx u hu
    · exact hrx l u hu

/-- Settles O10: the set a `Config` carries is valid, and the intervals of the block are its own. -/
theorem invalidParametersNotBuilt : Obligations.InvalidParametersNotBuilt := by
  refine ⟨fun f b p q => ⟨Config.build_eq_none_iff, fun g hg => ?_⟩, fun s => ?_,
    fun s i hi => exec_ne_badInterval hi s⟩
  · obtain ⟨hf, hb, hp, hq⟩ := Config.build_eq_some hg
    exact ⟨hf, hb, hp, hq, by rw [Config.bitPeriod, hf, hb]⟩
  · obtain ⟨hlo, hhi⟩ := bitPeriod_bounds s.cfg
    obtain ⟨hhalf, -, hhalf'⟩ := halfBit_bounds s.cfg
    exact ⟨hlo, hhi, hhalf, hhalf'⟩

end Machine
end Sys2Proof
end

section
/-! An operation's word decodes to it, and the step performs it (R9, R68, R85 to R88). -/

namespace Sys2Proof

/-- The fields a well-formed operation is spelled with are read back as that operation (R87). -/
theorem decodeFields_fieldsOf {i : Instr} (h : i.wellFormed = true) :
    decodeFields (fieldsOf i) = .ok i := by
  have chan (c : Chan) : chanOfBit (chanBit c) = c := by cases c <;> rfl
  cases i with
  | putc b =>
    have hhi : (b.setWidth 16).extractLsb' 8 8 = 0 := by
      ext j hj
      simp
    have hlo : (b.setWidth 16).extractLsb' 0 8 = b := by
      ext j hj
      simp [hj, hj.trans (by decide : 8 < 16)]
    simp [decodeFields, fieldsOf, OpKind.opcode, Fields.noChannel, Fields.noLevel, Fields.noZeroBits,
      requireZero, hhi, hlo]
  | arm c p =>
    have hp : p % 65536 = p := Nat.mod_eq_of_lt (of_decide_eq_true h)
    simp [decodeFields, fieldsOf, OpKind.opcode, Fields.noLevel, Fields.noZeroBits, requireZero, chan,
      hp]
  | rearm1 c d =>
    have hd : d % 65536 = d := Nat.mod_eq_of_lt (of_decide_eq_true h)
    simp [decodeFields, fieldsOf, OpKind.opcode, Fields.noLevel, Fields.noZeroBits, requireZero, chan,
      hd]
  | disarm c => cases c <;> rfl
  | init => rfl
  | getc => rfl
  | txstart => rfl
  | edge => rfl
  | rxtick l => rfl
  | txtick => rfl
  | clk l => rfl

/-- The word of a well-formed operation decodes to that operation (R85 to R88). -/
theorem decode_encode {i : Instr} (h : i.wellFormed = true) : decode (encode i) = .ok i := by
  rw [decode, encode, fields_wordOf, decodeFields_fieldsOf h]

namespace Machine

/-- The state from which `withFetchWord` takes its word is the state itself (log 4). -/
theorem withFetchWord_toNat (s : State) (w : OpWord) :
    s.withFetchWord 32 w.toNat = { s with input := .op w :: s.input } := by
  rw [State.withFetchWord, Nat.mod_eq_of_lt w.isLt, BitVec.ofNat_toNat, BitVec.setWidth_eq]
  rfl

/-- Settles O9: the oldest word delivered is taken, decoded and performed. -/
theorem stepRunsDecodedInstruction : Obligations.StepRunsDecodedInstruction := by
  refine ⟨fun s w rest i hin hd => step_op hin hd, fun s w i hd => ?_, fun s i hi => ?_⟩
  · rw [withFetchWord_toNat]
    exact step_op rfl hd
  · exact step_op rfl (decode_encode hi)

end Machine
end Sys2Proof
end

section
/-! Who writes what: the frame of every operation over the parameters, the control bits, the interface, the
remembered level and the error flags (R7, R29, R32 to R34). -/

namespace Sys2Proof.Machine

variable {i : Instr} {s t u : State} {c : Chan} {p : Nat} {l : Level} {b : Byte}

/-- Two states agree on what `INIT` and the edge detector of `CLK` alone may write: the parameters, the
control bits, the model's interface but for outputs and draws, and the remembered level (R7, R32, R34). -/
def SameSetting (s t : State) : Prop :=
  t.cfg = s.cfg ∧ t.ctl = s.ctl ∧ t.nesting = s.nesting ∧ t.input = s.input ∧
    t.callerByte = s.callerByte ∧ t.pin.rxPrev = s.pin.rxPrev

theorem SameSetting.refl (s : State) : SameSetting s s := by simp [SameSetting]

theorem SameSetting.trans (h : SameSetting s t) (g : SameSetting t u) : SameSetting s u := by
  obtain ⟨hcfg, hctl, hnest, hin, hcaller, hprev⟩ := h
  obtain ⟨gcfg, gctl, gnest, gin, gcaller, gprev⟩ := g
  exact ⟨gcfg.trans hcfg, gctl.trans hctl, gnest.trans hnest, gin.trans hin, gcaller.trans hcaller,
    gprev.trans hprev⟩

theorem setChan_setting (c : Chan) (v : Channel) (s : State) : SameSetting s (setChan c v s) := by
  simp [SameSetting]

theorem fire_setting (c : Chan) (s : State) : SameSetting s (fire c s) := by
  obtain ⟨v, hv⟩ := fire_frame c s
  exact hv ▸ setChan_setting c v s

theorem arm_setting (h : arm c p s = .next t) : SameSetting s t := by
  obtain ⟨-, ⟨-, rfl⟩ | ⟨-, rfl⟩⟩ := arm_cases h
  · exact .refl _
  · exact setChan_setting _ _ _

theorem takeReceived_setting (s : State) : SameSetting s (takeReceived s) := by
  simp [SameSetting, takeReceived]

/-! The transmit handlers. -/

theorem txStart_setting (h : txStart s = .next t) : SameSetting s t := by
  obtain ⟨-, rfl⟩ | ⟨-, h⟩ := txStart_cases h
  · exact .refl _
  · exact SameSetting.trans (t := withdraw s) (by simp [SameSetting, withdraw]) (arm_setting h)

theorem txDataBitEnd_setting (i : Fin 8) (s : State) : SameSetting s (txDataBitEnd i s) := by
  unfold txDataBitEnd
  split <;> simp [SameSetting]

theorem txTickHandler_setting (h : txTickHandler s = .next t) : SameSetting s t := by
  obtain ⟨-, -, h⟩ := txTickHandler_cases h
  refine (fire_setting .tx s).trans ?_
  obtain ⟨-, rfl⟩ | ⟨i, -, rfl⟩ | ⟨-, h⟩ := txBody_cases h
  · simp [SameSetting, txStartBitEnd]
  · exact txDataBitEnd_setting i _
  · exact SameSetting.trans (by simp [SameSetting, disarm]) (txStart_setting h)

/-! The receive handlers. -/

theorem deposit_setting (b : Byte) (s : State) : SameSetting s (deposit b s) := by
  obtain ⟨_, _, _, h⟩ := deposit_frame b s
  simp [SameSetting, h]

theorem rxStopByte_setting (l : Level) (s : State) : SameSetting s (rxStopByte l s) := by
  have hf : SameSetting s (setFraming (signal .framingError s)) := by simp [SameSetting]
  cases l with
  | true => exact deposit_setting _ _
  | false =>
    cases hp : s.cfg.framing with
    | deliver => simpa [rxStopByte, hp] using hf.trans (deposit_setting _ _)
    | discard => simpa [rxStopByte, hp] using hf

theorem rxStopBody_setting (l : Level) (s : State) : SameSetting s (rxStopBody l s) := by
  have h := (setChan_setting .rx _ s).trans (rxStopByte_setting l (disarm .rx s))
  exact h.trans (by simp [SameSetting, rxStopBody])

theorem rxTickHandler_setting (h : rxTickHandler l s = .next t) : SameSetting s t := by
  obtain ⟨-, -, h⟩ := rxTickHandler_cases h
  refine (fire_setting .rx s).trans ?_
  obtain ⟨-, -, rfl⟩ | ⟨-, -, h⟩ | ⟨i, -, rfl⟩ | ⟨-, rfl⟩ := rxBody_cases h
  · simp [SameSetting, disarm]
  · exact SameSetting.trans (by simp [SameSetting]) (arm_setting h)
  · simp [SameSetting, rxDataBody]
  · exact rxStopBody_setting l _

theorem edgeHandler_setting (h : edgeHandler s = .next t) : SameSetting s t := by
  obtain ⟨-, rfl⟩ | ⟨-, rfl⟩ := edgeHandler_cases h
  · exact .refl _
  · simp [SameSetting]

/-! The operations. -/

theorem clockChan_setting {k : State → Result} (hk : ∀ {s t}, k s = .next t → SameSetting s t)
    (h : clockChan c k s = .next t) : SameSetting s t := by
  have hd : SameSetting s (countDown c s) := setChan_setting _ _ _
  obtain ⟨-, rfl⟩ | ⟨-, -, rfl⟩ | ⟨-, -, h⟩ := clockChan_cases h
  · exact .refl _
  · exact hd
  · exact hd.trans (hk h)

/-- `CLK` writes the remembered level, last, and of the rest of the setting nothing (R180, R182). -/
theorem execClk_setting (h : execClk l s = .next t) : ∃ r u, SameSetting s u ∧ t = setRxPrev r u := by
  cases hi : s.ctl.initialised with
  | false =>
    rw [execClk_before_init hi] at h
    cases h
    exact ⟨s.pin.rxPrev, s, .refl s, rfl⟩
  | true =>
    obtain ⟨u, v, hu, hv, h⟩ := execClk_cases hi h
    have hsv := (clockChan_setting txTickHandler_setting hu).trans
      (clockChan_setting rxTickHandler_setting hv)
    obtain ⟨w, rfl, ⟨-, hw⟩ | ⟨-, rfl⟩⟩ := clockEdge_cases h
    · exact ⟨l, w, hsv.trans (edgeHandler_setting hw), rfl⟩
    · exact ⟨l, w, hsv, rfl⟩

theorem execPutc_setting (h : execPutc b s = .next t) : SameSetting s t := by
  obtain ⟨-, ⟨-, rfl⟩ | ⟨-, u, hu, rfl⟩⟩ := execPutc_cases h
  · simp [SameSetting]
  · have hput : SameSetting s (setTransmitBusy true (memWrite .transmit (some b) s)) := by
      simp [SameSetting]
    exact (hput.trans (txStart_setting hu)).trans (by simp [SameSetting])

theorem execGetc_setting (h : execGetc s = .next t) : SameSetting s t := by
  obtain ⟨-, ⟨-, rfl⟩ | ⟨-, rfl⟩⟩ := execGetc_cases h
  · exact takeReceived_setting s
  · simp [SameSetting]

/-- What a completed operation can have written of the setting: `INIT` its own values, `CLK` the remembered
level, every other operation nothing (R29, R32, R34). -/
theorem exec_setting (h : exec i s = .next t) :
    (i = .init ∧ t = initialise s) ∨
    ((∃ l, i = .clk l) ∧ ∃ r u, SameSetting s u ∧ t = setRxPrev r u) ∨
    SameSetting s t := by
  cases i with
  | init => exact .inl ⟨rfl, (execInit_cases h).2⟩
  | clk l => exact .inr (.inl ⟨⟨l, rfl⟩, execClk_setting h⟩)
  | getc => exact .inr (.inr (execGetc_setting h))
  | putc b => exact .inr (.inr (execPutc_setting h))
  | arm c p => exact .inr (.inr (arm_setting (onlyInside_eq_next.1 h).2))
  | disarm c =>
    obtain ⟨-, rfl⟩ := execDisarm_cases h
    exact .inr (.inr (setChan_setting _ _ _))
  | rearm1 c d =>
    obtain ⟨-, rfl⟩ := rearm1_cases (onlyInside_eq_next.1 h).2
    exact .inr (.inr (setChan_setting _ _ _))
  | txstart => exact .inr (.inr (txStart_setting (onlyInside_eq_next.1 h).2))
  | edge => exact .inr (.inr (edgeHandler_setting h))
  | rxtick l => exact .inr (.inr (rxTickHandler_setting h))
  | txtick => exact .inr (.inr (txTickHandler_setting h))

/-- The error flags are the receive side's own, so no transmit handler writes them (R33). -/
theorem SameReceiveSide.err_eq (h : SameReceiveSide s t) : t.err = s.err := by
  obtain ⟨-, -, -, -, -, herr⟩ := h
  exact herr

/-- `GETC` writes the receive slot and shows its result; the rest of the block stays (R29, R160). -/
theorem execGetc_frame (h : execGetc s = .next t) :
    t.rx = s.rx ∧ t.tx = s.tx ∧ t.tm = s.tm ∧ t.pin = s.pin ∧ t.err = s.err := by
  obtain ⟨-, ⟨-, rfl⟩ | ⟨-, rfl⟩⟩ := execGetc_cases h
  · simp [takeReceived]
  · simp

theorem execPutc_err (h : execPutc b s = .next t) : t.err = s.err := by
  obtain ⟨-, ⟨-, rfl⟩ | ⟨-, u, hu, rfl⟩⟩ := execPutc_cases h
  · simp
  · simpa using (txStart_receiveSide hu).err_eq

theorem edgeHandler_err (h : edgeHandler s = .next t) : t.err = s.err := by
  obtain ⟨-, rfl⟩ | ⟨-, rfl⟩ := edgeHandler_cases h <;> simp

/-- Only `INIT` and a receive firing write the error flags (R33). -/
theorem exec_err (h : exec i s = .next t) :
    i = .init ∨ (∃ l, i = .rxtick l ∨ i = .clk l) ∨ t.err = s.err := by
  cases i with
  | init => exact .inl rfl
  | rxtick l => exact .inr (.inl ⟨l, .inl rfl⟩)
  | clk l => exact .inr (.inl ⟨l, .inr rfl⟩)
  | getc =>
    obtain ⟨-, -, -, -, herr⟩ := execGetc_frame h
    exact .inr (.inr herr)
  | putc b => exact .inr (.inr (execPutc_err h))
  | arm c p =>
    obtain ⟨-, ⟨-, rfl⟩ | ⟨-, rfl⟩⟩ := arm_cases (onlyInside_eq_next.1 h).2 <;> simp
  | disarm c =>
    obtain ⟨-, rfl⟩ := execDisarm_cases h
    simp [disarm]
  | rearm1 c d =>
    obtain ⟨-, rfl⟩ := rearm1_cases (onlyInside_eq_next.1 h).2
    simp
  | txstart => exact .inr (.inr (txStart_receiveSide (onlyInside_eq_next.1 h).2).err_eq)
  | edge => exact .inr (.inr (edgeHandler_err h))
  | txtick => exact .inr (.inr (txTickHandler_receiveSide h).err_eq)

/-- A `PUTC` that is turned away only shows so (R162). -/
theorem execPutc_turnedAway (hb : s.mb.transmitBusy = true) (h : execPutc b s = .next t) :
    t = emit (.putc false) (signal .transmitContention s) := by
  obtain ⟨-, ⟨-, ht⟩ | ⟨hfree, -⟩⟩ := execPutc_cases h
  · exact ht
  · simp [hb] at hfree

/-- A `TXSTART` with a frame in progress or nothing queued writes nothing (R140). -/
theorem execTxstart_idle (hq : s.tx.phase ≠ .idle ∨ s.mb.transmitBusy = false)
    (h : execTxstart s = .next t) : t = s := by
  obtain ⟨-, ht⟩ | ⟨⟨hi, hb⟩, -⟩ := txStart_cases (onlyInside_eq_next.1 h).2
  · exact ht
  · simp [hi, hb] at hq

/-- Settles O53: from the frame of every operation over the setting and over the error flags. -/
theorem ownershipOfState : Obligations.OwnershipOfState := by
  intro i s t h
  have hset : t.cfg = s.cfg ∧ t.input = s.input ∧ t.nesting = s.nesting ∧
      (t.ctl ≠ s.ctl → i = .init) ∧
      (t.pin.rxPrev ≠ s.pin.rxPrev → i = .init ∨ ∃ l, i = .clk l) := by
    obtain ⟨hi, rfl⟩ | ⟨hclk, r, u, ⟨hcfg, hctl, hnest, hin, -, -⟩, rfl⟩ |
      ⟨hcfg, hctl, hnest, hin, -, hprev⟩ := exec_setting h
    · exact ⟨rfl, rfl, rfl, fun _ => hi, fun _ => .inl hi⟩
    · exact ⟨hcfg, hin, hnest, fun hne => absurd hctl hne, fun _ => .inr hclk⟩
    · exact ⟨hcfg, hin, hnest, fun hne => absurd hctl hne, fun hne => absurd hprev hne⟩
  obtain ⟨hcfg, hin, hnest, hctl, hprev⟩ := hset
  refine ⟨hcfg, hin, hnest, hctl, hprev, fun hne => ?_, ?_, ?_, ?_⟩
  · obtain hi | hrx | herr := exec_err h
    · exact .inl hi
    · exact .inr hrx
    · exact absurd herr hne
  · rintro rfl
    exact execGetc_frame h
  · rintro b rfl hb
    simp [execPutc_turnedAway hb h]
  · rintro rfl hq
    exact execTxstart_idle hq h

end Sys2Proof.Machine
end

section
/-! The invariant of R37 side by side: what it asks of the receive side, of the transmit side, and of the transmit
side where the driver is about to be woken. -/

namespace Sys2Proof.Machine

variable {s t : State} {g : Config} {b : Byte} {i : Fin 8} {l : Level}

/-- I3, I10 and I11 of R37: the receive FrameState. -/
structure RxFrameOk (v : RxState) : Prop where
  bits : v.bitsReceived = v.phase.bitsDone
  quiet : v.phase = .idle ∨ v.phase = .startDetected → v.shiftRegister = 0
  filled : ∀ i : Fin 8, v.phase = .samplingBit i →
    ∀ j : Fin 8, j.val + i.val < 8 → v.shiftRegister.getLsbD j.val = false

/-- I5, I7 and I8 of R37: the receive channel in a phase of the receiver. -/
structure RxChannelOk (g : Config) (p : RxPhase) (ch : Channel) : Prop where
  armed : ch.armed = decide (p ≠ .idle)
  oneShot : ch.oneShot = decide (p = .startDetected)
  channel : ChannelOk g ch

/-- The receive side of R37. -/
structure RxSideOk (s : State) : Prop where
  frame : RxFrameOk s.rx
  channel : RxChannelOk s.cfg s.rx.phase s.tm.rx
  slot : s.mb.receivedReady = s.mb.receivedByte.isSome

/-- I4, I9 and the level of R24: the transmit FrameState and the output pin. -/
structure TxFrameOk (v : TxState) (l : Level) : Prop where
  bits : v.bitsSent = v.phase.bitsDone
  pending : v.phase = .idle → v.pendingByte = 0
  level : l = v.phase.level v.pendingByte

/-- I6, I7 and I8 of R37: the transmit channel in a phase of the driver. -/
structure TxChannelOk (g : Config) (p : TxPhase) (ch : Channel) : Prop where
  armed : ch.armed = decide (p ≠ .idle)
  oneShot : ch.oneShot = false
  channel : ChannelOk g ch

/-- The transmit side where `TXSTART` is performed: R37 but for I9's demand that an idle driver has nothing
queued. -/
structure TxSideAtWake (s : State) : Prop where
  frame : TxFrameOk s.tx s.pin.tx
  channel : TxChannelOk s.cfg s.tx.phase s.tm.tx
  slot : s.mb.transmitBusy = s.mb.transmitByte.isSome

/-- The transmit side of R37. -/
structure TxSideOk (s : State) : Prop extends TxSideAtWake s where
  nothingQueued : s.tx.phase = .idle → s.mb.transmitBusy = false

theorem BlockOk.rxSide (h : BlockOk s) : RxSideOk s :=
  ⟨⟨h.bitsReceived, h.rxQuiet, h.rxFilled⟩, ⟨h.rxArmed, h.rxOneShot, h.rxChannel⟩, h.readyIff⟩

theorem BlockOk.txSide (h : BlockOk s) : TxSideOk s where
  frame := ⟨h.bitsSent, fun hp => let ⟨_, _, hpending⟩ := h.txIdle hp; hpending, h.pinLevel⟩
  channel := ⟨h.txArmed, h.txOneShot, h.txChannel⟩
  slot := h.busyIff
  nothingQueued hp := let ⟨_, hbusy, _⟩ := h.txIdle hp; hbusy

/-- R37 holds of a block when it holds of its two sides. -/
theorem BlockOk.of_sides (hrx : RxSideOk s) (htx : TxSideOk s) : BlockOk s where
  readyIff := hrx.slot
  busyIff := htx.slot
  bitsReceived := hrx.frame.bits
  bitsSent := htx.frame.bits
  rxArmed := hrx.channel.armed
  txArmed := htx.channel.armed
  rxOneShot := hrx.channel.oneShot
  txOneShot := htx.channel.oneShot
  rxChannel := hrx.channel.channel
  txChannel := htx.channel.channel
  txIdle hp := ⟨by simp [htx.frame.level, hp, TxPhase.level], htx.nothingQueued hp, htx.frame.pending hp⟩
  rxQuiet := hrx.frame.quiet
  rxFilled := hrx.frame.filled
  pinLevel := htx.frame.level

/-- A side that is as it was meets R37 as it did. -/
theorem RxSideOk.of_eq (h : RxSideOk s) (hcfg : t.cfg = s.cfg) (hrx : t.rx = s.rx)
    (htm : t.tm.rx = s.tm.rx) (hbyte : t.mb.receivedByte = s.mb.receivedByte)
    (hready : t.mb.receivedReady = s.mb.receivedReady) : RxSideOk t :=
  ⟨hrx ▸ h.frame, by rw [hcfg, hrx, htm]; exact h.channel, by rw [hready, hbyte]; exact h.slot⟩

theorem TxSideOk.of_eq (h : TxSideOk s) (hcfg : t.cfg = s.cfg) (hs : SameTransmitSide s t) :
    TxSideOk t := by
  obtain ⟨htx, hpin, htm, hbyte, hbusy⟩ := hs
  exact
    { frame := by rw [htx, hpin]; exact h.frame
      channel := by rw [hcfg, htx, htm]; exact h.channel
      slot := by rw [hbusy, hbyte]; exact h.slot
      nothingQueued := by rw [htx, hbusy]; exact h.nothingQueued }

theorem RxSideOk.of_receiveSide (h : RxSideOk s) (hcfg : t.cfg = s.cfg) (hs : SameReceiveSide s t) :
    RxSideOk t := by
  obtain ⟨hrx, -, htm, hbyte, hready, -⟩ := hs
  exact h.of_eq hcfg hrx htm hbyte hready

/-- A running block goes on running when the control bits and the nesting stay and both sides meet R37. -/
theorem Running.of_sides (hr : Running s) (hctl : t.ctl = s.ctl) (hnest : t.nesting = s.nesting)
    (hrx : RxSideOk t) (htx : TxSideOk t) : Running t :=
  ⟨hnest.trans hr.topLevel, by rw [hctl]; exact hr.initialised, by rw [hctl]; exact hr.gie,
    .of_sides hrx htx⟩

/-! ## The receiver's phases -/

/-- In an idle receiver the stopped channel is what R37 asks. -/
theorem RxChannelOk.stopped (g : Config) (p : Ticks) :
    RxChannelOk g .idle { armed := false, oneShot := false, count := 0, period := p } :=
  ⟨by simp, by simp, .stopped g p⟩

theorem RxChannelOk.halfBit (g : Config) (p : Ticks) :
    RxChannelOk g .startDetected
      { armed := true, oneShot := true, count := ticksOf g.halfBit, period := p } :=
  ⟨by simp, by simp, .halfBit g p⟩

theorem RxChannelOk.periodic (g : Config) {p : RxPhase} (hi : p ≠ .idle) (hs : p ≠ .startDetected) :
    RxChannelOk g p { armed := true, oneShot := false, count := ticksOf g.bitPeriod,
                      period := ticksOf g.bitPeriod } :=
  ⟨by simp [hi], by simp [hs], .periodic g⟩

/-- The receive FrameState of an idle receiver and of a start detected: everything 0 (R120, R126, R165). -/
theorem RxFrameOk.cleared {p : RxPhase} (hp : p = .idle ∨ p = .startDetected) :
    RxFrameOk { phase := p, shiftRegister := 0, bitsReceived := 0 } := by
  obtain rfl | rfl := hp <;> exact ⟨rfl, by simp, by simp⟩

/-- From a start bit the receiver goes back to `Idle` or on to `SamplingBit(0)`, both with the accumulator
still 0 (R122). -/
theorem RxFrameOk.startBitEnd {v : RxState} (h : RxFrameOk v) (hp : v.phase = .startDetected) :
    RxFrameOk { v with phase := .idle } ∧ RxFrameOk { v with phase := .samplingBit 0 } := by
  have hbits : v.bitsReceived = 0 := by simpa [hp, RxPhase.bitsDone] using h.bits
  have hzero := h.quiet (.inr hp)
  refine ⟨⟨hbits, fun _ => hzero, by simp⟩, ⟨hbits, by simp, fun i _ j _ => by simp [hzero]⟩⟩

/-- What follows `SamplingBit(i)` is neither `Idle` nor `StartDetected` (R124). -/
theorem afterSample_ne (i : Fin 8) : afterSample i ≠ .idle ∧ afterSample i ≠ .startDetected := by
  unfold afterSample
  split <;> simp

/-- A sample enters at bit 7, so the bits not yet filled stay 0 (R37 I11, R124). -/
theorem RxFrameOk.dataBitEnd {v : RxState} (h : RxFrameOk v) (hp : v.phase = .samplingBit i)
    (l : Level) :
    RxFrameOk { phase := afterSample i, shiftRegister := shiftIn l v.shiftRegister,
                bitsReceived := bitCount (i.val + 1) } := by
  obtain ⟨hidle, hstart⟩ := afterSample_ne i
  by_cases hi : i.val < 7
  · have hnext : afterSample i = .samplingBit ⟨i.val + 1, by omega⟩ := dif_pos hi
    refine ⟨by simp [hnext, RxPhase.bitsDone], by simp [hidle, hstart], fun k hk j hj => ?_⟩
    have hk : i.val + 1 = k.val := congrArg Fin.val (RxPhase.samplingBit.inj (hnext.symm.trans hk))
    have hold := h.filled i hp ⟨j.val + 1, by omega⟩ (by simp only; omega)
    simp only [shiftIn_bit, hold, Bool.and_false, ite_eq_right_iff]
    omega
  · have hnext : afterSample i = .stopExpected := dif_neg hi
    have h7 : i.val = 7 := by omega
    exact ⟨by simp [hnext, RxPhase.bitsDone, h7, bitCount], by simp [hnext], by simp [hnext]⟩

/-! ## The driver's phases -/

theorem TxChannelOk.stopped (g : Config) (p : Ticks) :
    TxChannelOk g .idle { armed := false, oneShot := false, count := 0, period := p } :=
  ⟨by simp, rfl, .stopped g p⟩

theorem TxChannelOk.periodic (g : Config) {p : TxPhase} (hp : p ≠ .idle) :
    TxChannelOk g p { armed := true, oneShot := false, count := ticksOf g.bitPeriod,
                      period := ticksOf g.bitPeriod } :=
  ⟨by simp [hp], rfl, .periodic g⟩

/-- The resting driver (R146, R165). -/
theorem TxFrameOk.rest : TxFrameOk { phase := .idle, pendingByte := 0, bitsSent := 0 } true :=
  ⟨rfl, fun _ => rfl, rfl⟩

theorem TxFrameOk.sendingStart (b : Byte) :
    TxFrameOk { phase := .sendingStart, pendingByte := b, bitsSent := 0 } false :=
  ⟨rfl, by simp, rfl⟩

theorem TxFrameOk.sendingBit (b : Byte) (i : Fin 8) :
    TxFrameOk { phase := .sendingBit i, pendingByte := b, bitsSent := bitCount (i.val + 1) }
      (dataBit b i) :=
  ⟨rfl, by simp, rfl⟩

end Sys2Proof.Machine
end

section
/-! Every step keeps R37: each handler keeps its own side, and leaves the other. -/

namespace Sys2Proof.Machine

variable {s t u : State} {c : Chan} {i : Fin 8} {l : Level} {b : Byte}

/-! ## The transmit handlers -/

/-- `TXSTART` restores I9: it withdraws the byte that waits on an idle driver (R140). -/
theorem TxSideAtWake.txStart_txSide (h : TxSideAtWake s) (ht : txStart s = .next t) : TxSideOk t := by
  by_cases hq : s.tx.phase = .idle ∧ s.mb.transmitBusy = true
  · obtain ⟨hi, hb⟩ := hq
    obtain ⟨b, hbyte⟩ := Option.isSome_iff_exists.1 (h.slot.symm.trans hb)
    have ha : s.tm.tx.armed = false := by simp [h.channel.armed, hi]
    rw [txStart_acts hi hb hbyte ha] at ht
    cases ht
    exact ⟨⟨.sendingStart b, .periodic _ (by simp), rfl⟩, by simp⟩
  · rw [txStart_idle hq] at ht
    cases ht
    exact ⟨h, fun hi => by simpa [hi] using hq⟩

/-- In a frame in progress the next cell of the frame keeps R37 (R142, R143, R144). -/
theorem TxSideOk.nextCell (h : TxSideOk s) (hp : s.tx.phase ≠ .idle) {v : TxState}
    (hv : v.phase ≠ .idle) (hf : TxFrameOk v l) : TxSideOk (setTx v (setPinTx l s)) where
  frame := hf
  channel := ⟨by simpa [hp, hv] using h.channel.armed, h.channel.oneShot, h.channel.channel⟩
  slot := h.slot
  nothingQueued hi := absurd hi hv

theorem TxSideOk.txDataBitEnd_txSide (h : TxSideOk s) (hp : s.tx.phase = .sendingBit i) :
    TxSideOk (txDataBitEnd i s) := by
  have hbusy : s.tx.phase ≠ .idle := by simp [hp]
  unfold txDataBitEnd
  split
  next hi => exact h.nextCell hbusy (by simp) (.sendingBit _ ⟨i.val + 1, by omega⟩)
  next hi =>
    have h7 : i.val = 7 := by omega
    have hbits : s.tx.bitsSent = 8 := by simpa [hp, TxPhase.bitsDone, h7, bitCount] using h.frame.bits
    exact h.nextCell hbusy (by simp) ⟨hbits, by simp, rfl⟩

/-- The end of the stop bit wakes the driver with the line at rest (R146). -/
theorem TxSideOk.txStopBitEnd_txSide (h : TxSideOk s) (hp : s.tx.phase = .sendingStop)
    (ht : txStopBitEnd s = .next t) : TxSideOk t := by
  have hpin : s.pin.tx = true := by simpa [hp, TxPhase.level] using h.frame.level
  refine TxSideAtWake.txStart_txSide ?_ ht
  refine ⟨?_, .stopped _ s.tm.tx.period, h.slot⟩
  simpa [disarm, hpin] using TxFrameOk.rest

theorem TxSideOk.txBody_txSide (h : TxSideOk s) (ht : txBody s = .next t) : TxSideOk t := by
  obtain ⟨hp, rfl⟩ | ⟨i, hp, rfl⟩ | ⟨hp, ht⟩ := txBody_cases ht
  · exact h.nextCell (by simp [hp]) (by simp) (.sendingBit _ 0)
  · exact h.txDataBitEnd_txSide hp
  · exact h.txStopBitEnd_txSide hp ht

/-- A transmit firing of a running block finds a frame in progress (R37 I6). -/
theorem Running.txTickHandler_body (hr : Running s) (ht : txTickHandler s = .next t) :
    s.tx.phase ≠ .idle ∧ txBody (fire .tx s) = .next t := by
  obtain ⟨-, ha, ht⟩ := txTickHandler_cases ht
  exact ⟨by simpa [hr.ok.txArmed] using ha, ht⟩

theorem Running.txTickHandler_txSide (hr : Running s) (ht : txTickHandler s = .next t) :
    TxSideOk t := by
  obtain ⟨hp, ht⟩ := hr.txTickHandler_body ht
  have htx := hr.ok.txSide
  rw [hr.fire_tx_periodic hp] at ht
  refine TxSideOk.txBody_txSide ?_ ht
  exact ⟨⟨htx.frame, .periodic _ hp, htx.slot⟩, htx.nothingQueued⟩

/-! ## The receive handlers -/

/-- A deposit fills the slot or finds it full, and sets the flag or finds it set (R37 I1, R127). -/
theorem deposit_slot (h : s.mb.receivedReady = s.mb.receivedByte.isSome) :
    (deposit b s).mb.receivedReady = (deposit b s).mb.receivedByte.isSome := by
  cases hr : s.mb.receivedReady with
  | false => simp [deposit_empty hr]
  | true =>
    cases hp : s.cfg.overrun with
    | dropNew => simpa [deposit_dropNew hr hp] using h
    | overwrite => simp [deposit_overwrite hr hp, hr]

theorem rxStopByte_slot (h : s.mb.receivedReady = s.mb.receivedByte.isSome) :
    (rxStopByte l s).mb.receivedReady = (rxStopByte l s).mb.receivedByte.isSome := by
  cases l with
  | true => exact deposit_slot h
  | false =>
    have hf : (setFraming (signal .framingError s)).mb.receivedReady =
        (setFraming (signal .framingError s)).mb.receivedByte.isSome := h
    cases hp : s.cfg.framing with
    | deliver => simpa [rxStopByte, hp] using deposit_slot hf
    | discard => simpa [rxStopByte, hp] using hf

@[simp] theorem deposit_tm (b : Byte) (s : State) : (deposit b s).tm = s.tm := by
  obtain ⟨_, _, _, h⟩ := deposit_frame b s
  rw [h]

/-- What a stop sample does with the byte does not reach the timer (R126). -/
@[simp] theorem rxStopByte_tm (l : Level) (s : State) : (rxStopByte l s).tm = s.tm := by
  cases l with
  | true => exact deposit_tm _ _
  | false => cases hp : s.cfg.framing <;> simp [rxStopByte, hp]

/-- A stop sample ends the frame: the receiver cleared, its channel stopped (R126). -/
theorem rxStopBody_rxSide (h : s.mb.receivedReady = s.mb.receivedByte.isSome) (l : Level) :
    RxSideOk (rxStopBody l s) where
  frame := .cleared (.inl rfl)
  channel := by simpa [rxStopBody, disarm] using RxChannelOk.stopped _ s.tm.rx.period
  slot := rxStopByte_slot (s := disarm .rx s) h

/-- A receive firing of a running block finds a frame in progress (R37 I5). -/
theorem Running.rxTickHandler_body (hr : Running s) (ht : rxTickHandler l s = .next t) :
    s.rx.phase ≠ .idle ∧ rxBody l (fire .rx s) = .next t := by
  obtain ⟨-, ha, ht⟩ := rxTickHandler_cases ht
  exact ⟨by simpa [hr.ok.rxArmed] using ha, ht⟩

theorem Running.rxTickHandler_rxSide (hr : Running s) (ht : rxTickHandler l s = .next t) :
    RxSideOk t := by
  obtain ⟨hp, ht⟩ := hr.rxTickHandler_body ht
  have hrx := hr.ok.rxSide
  by_cases hs : s.rx.phase = .startDetected
  · rw [hr.fire_rx_oneShot hs] at ht
    obtain ⟨hidle, hfirst⟩ := hrx.frame.startBitEnd hs
    obtain ⟨-, -, rfl⟩ | ⟨-, -, ht⟩ | ⟨i, hi, -⟩ | ⟨hi, -⟩ := rxBody_cases ht
    · exact ⟨hidle, .stopped _ _, hrx.slot⟩
    · rw [arm_disarmed (intervalOk_bitPeriod _) rfl] at ht
      cases ht
      exact ⟨hfirst, .periodic _ (by simp) (by simp), hrx.slot⟩
    · simp [hs] at hi
    · simp [hs] at hi
  · rw [hr.fire_rx_periodic hp hs] at ht
    obtain ⟨hi, -⟩ | ⟨hi, -⟩ | ⟨i, hi, rfl⟩ | ⟨-, rfl⟩ := rxBody_cases ht
    · exact absurd hi hs
    · exact absurd hi hs
    · obtain ⟨h1, h2⟩ := afterSample_ne i
      exact ⟨hrx.frame.dataBitEnd hi l, .periodic _ h1 h2, hrx.slot⟩
    · refine rxStopBody_rxSide ?_ l
      exact hrx.slot

theorem RxSideOk.edgeHandler_rxSide (h : RxSideOk s) (ht : edgeHandler s = .next t) : RxSideOk t := by
  obtain ⟨-, rfl⟩ | ⟨-, rfl⟩ := edgeHandler_cases ht
  · exact h
  · exact ⟨.cleared (.inr rfl), .halfBit _ _, h.slot⟩

/-! ## The operations of a running block -/

theorem Running.after_txTickHandler (hr : Running s) (ht : txTickHandler s = .next t) : Running t := by
  obtain ⟨hcfg, hctl, hnest, -, -, -⟩ := txTickHandler_setting ht
  exact hr.of_sides hctl hnest (hr.ok.rxSide.of_receiveSide hcfg (txTickHandler_receiveSide ht))
    (hr.txTickHandler_txSide ht)

theorem Running.after_rxTickHandler (hr : Running s) (ht : rxTickHandler l s = .next t) : Running t := by
  obtain ⟨hcfg, hctl, hnest, -, -, -⟩ := rxTickHandler_setting ht
  exact hr.of_sides hctl hnest (hr.rxTickHandler_rxSide ht)
    (hr.ok.txSide.of_eq hcfg (rxTickHandler_transmitSide ht))

theorem Running.after_edgeHandler (hr : Running s) (ht : edgeHandler s = .next t) : Running t := by
  obtain ⟨hcfg, hctl, hnest, -, -, -⟩ := edgeHandler_setting ht
  exact hr.of_sides hctl hnest (hr.ok.rxSide.edgeHandler_rxSide ht)
    (hr.ok.txSide.of_eq hcfg (edgeHandler_transmitSide ht))

/-- R37 reads neither the level remembered, nor what is still to come, has been shown or lies outside the block. -/
theorem Running.withUnread (hr : Running s) (prev : Level) (rest : List Delivered) (shown : List Output)
    (b : Byte) : Running { s with
      pin := { s.pin with rxPrev := prev }, input := rest, outputs := shown, callerByte := b } :=
  hr.of_sides rfl rfl (hr.ok.rxSide.of_eq rfl rfl rfl rfl rfl)
    (hr.ok.txSide.of_eq rfl ⟨rfl, rfl, rfl, rfl, rfl⟩)

theorem Running.after_setRxPrev (hr : Running s) (l : Level) : Running (setRxPrev l s) :=
  hr.withUnread l s.input s.outputs s.callerByte

theorem Running.after_emit (hr : Running s) (o : Output) : Running (emit o s) :=
  hr.withUnread s.pin.rxPrev s.input (o :: s.outputs) s.callerByte

/-- A tick without a firing keeps I8 (R180). -/
theorem Running.after_countDown (hr : Running s) (ha : (s.chan c).armed = true)
    (hc : (s.chan c).count ≠ 1) : Running (countDown c s) := by
  have hrx := hr.ok.rxSide
  have htx := hr.ok.txSide
  cases c with
  | rx =>
    refine hr.of_sides rfl rfl ⟨hrx.frame, ?_, hrx.slot⟩ (htx.of_eq rfl ⟨rfl, rfl, rfl, rfl, rfl⟩)
    exact ⟨hrx.channel.armed, hrx.channel.oneShot, hrx.channel.channel.countDown ha hc⟩
  | tx =>
    refine hr.of_sides rfl rfl (hrx.of_eq rfl rfl rfl rfl rfl)
      ⟨⟨htx.frame, ?_, htx.slot⟩, htx.nothingQueued⟩
    exact ⟨htx.channel.armed, htx.channel.oneShot, htx.channel.channel.countDown ha hc⟩

/-- A channel step of `CLK` keeps R37 when its handler, which does not see the count, does. -/
theorem Running.after_clockChan {k : State → Result} (hr : Running s)
    (hcount : k (countDown c s) = k s) (hk : ∀ t, k s = .next t → Running t)
    (ht : clockChan c k s = .next t) : Running t := by
  obtain ⟨-, rfl⟩ | ⟨ha, hc, rfl⟩ | ⟨-, -, ht⟩ := clockChan_cases ht
  · exact hr
  · exact hr.after_countDown ha hc
  · exact hk t (hcount ▸ ht)

theorem Running.after_execClk (hr : Running s) (ht : execClk l s = .next t) : Running t := by
  obtain ⟨u, v, hu, hv, ht⟩ := execClk_cases hr.initialised ht
  have hru : Running u :=
    hr.after_clockChan (txTickHandler_countDown s) (fun _ => hr.after_txTickHandler) hu
  have hrv : Running v :=
    hru.after_clockChan (rxTickHandler_countDown l u) (fun _ => hru.after_rxTickHandler) hv
  obtain ⟨w, rfl, ⟨-, hw⟩ | ⟨-, rfl⟩⟩ := clockEdge_cases ht
  · exact (hrv.after_edgeHandler hw).after_setRxPrev l
  · exact hrv.after_setRxPrev l

/-- A `GETC` empties the slot and clears its flag (R37 I1, R160). -/
theorem Running.after_execGetc (hr : Running s) (ht : execGetc s = .next t) : Running t := by
  have hrx := hr.ok.rxSide
  obtain ⟨-, ⟨-, rfl⟩ | ⟨-, rfl⟩⟩ := execGetc_cases ht
  · refine hr.of_sides (by simp [takeReceived]) (by simp [takeReceived]) ?_
      (hr.ok.txSide.of_eq (by simp [takeReceived]) (by simp [SameTransmitSide, takeReceived]))
    exact ⟨by simpa [takeReceived] using hrx.frame, by simpa [takeReceived] using hrx.channel,
      by simp [takeReceived]⟩
  · exact hr.after_emit _

/-- A `PUTC` fills the free slot, and the driver it wakes restores I9 (R162, R163). -/
theorem Running.after_execPutc (hr : Running s) (ht : execPutc b s = .next t) : Running t := by
  obtain ⟨hcfg, hctl, hnest, -, -, -⟩ := execPutc_setting ht
  obtain ⟨-, ⟨-, rfl⟩ | ⟨-, u, hu, rfl⟩⟩ := execPutc_cases ht
  · exact (hr.after_emit _).after_emit _
  · have htx := hr.ok.txSide
    have hut : TxSideOk u := by
      refine TxSideAtWake.txStart_txSide ?_ hu
      exact ⟨htx.frame, htx.channel, rfl⟩
    have hus : SameReceiveSide s u :=
      SameReceiveSide.trans (by simp [SameReceiveSide]) (txStart_receiveSide hu)
    have hu : Running u := hr.of_sides hctl hnest (hr.ok.rxSide.of_receiveSide hcfg hus) hut
    exact hu.after_emit _

/-- At the top level of a trace no sub-operation completes (R105, R206). -/
theorem exec_topLevel_context {i : Instr} (hn : s.nesting = .topLevel) (ht : exec i s = .next t) :
    i.context ≠ .internal := by
  have hrefused (body : State → Result) : onlyInside body s ≠ .next t := by
    simp [onlyInside_topLevel s body hn]
  intro hi
  cases i with
  | arm c p => exact hrefused _ ht
  | disarm c => exact hrefused (fun s => .next (disarm c s)) ht
  | rearm1 c d => exact hrefused _ ht
  | txstart => exact hrefused _ ht
  | _ => cases hi

/-- Every operation of a running block keeps R37. -/
theorem Running.after_exec {i : Instr} (hr : Running s) (ht : exec i s = .next t) : Running t := by
  have hagent := exec_topLevel_context hr.topLevel ht
  cases i with
  | init =>
    obtain ⟨hi, -⟩ := execInit_cases ht
    simp [hr.initialised] at hi
  | getc => exact hr.after_execGetc ht
  | putc b => exact hr.after_execPutc ht
  | arm c p => exact absurd rfl hagent
  | disarm c => exact absurd rfl hagent
  | rearm1 c d => exact absurd rfl hagent
  | txstart => exact absurd rfl hagent
  | edge => exact hr.after_edgeHandler ht
  | rxtick l => exact hr.after_rxTickHandler ht
  | txtick => exact hr.after_txTickHandler ht
  | clk l => exact hr.after_execClk ht

end Sys2Proof.Machine
end

section
/-! The invariant of the machine: it holds at power-on, `INIT` takes a block from one half of it to the other, and
every step keeps it (R37, R240). -/

namespace Sys2Proof.Machine

variable {s t : State} {i : Instr}

/-- The invariant reads neither what is still to come nor the caller's byte (R61; log 4). -/
theorem Inv.withUnread (h : Inv s) (rest : List Delivered) (b : Byte) :
    Inv { s with input := rest, callerByte := b } := by
  obtain hp | hr := h
  · exact .inl ⟨hp.topLevel, hp.initialised, hp.gie, hp.rxDisarmed, hp.txDisarmed⟩
  · exact .inr (hr.withUnread s.pin.rxPrev rest s.outputs b)

/-- The state that `INIT` leaves meets R37, with both sequencers at rest (R165). -/
theorem initialise_blockOk (s : State) : BlockOk (initialise s) :=
  .of_sides ⟨.cleared (.inl rfl), .stopped _ 0, rfl⟩ ⟨⟨.rest, .stopped _ 0, rfl⟩, fun _ => rfl⟩

theorem PoweredOn.initialise_running (hp : PoweredOn s) : Running (initialise s) :=
  ⟨hp.topLevel, rfl, rfl, initialise_blockOk s⟩

/-- Before `INIT` an operation that completes is `INIT` or changes nothing (R166, R240). -/
theorem PoweredOn.exec_cases (hp : PoweredOn s) (ht : exec i s = .next t) :
    (i = .init ∧ t = initialise s) ∨ t = s := by
  have hi : s.ctl.initialised ≠ true := by simp [hp.initialised]
  have hagent := exec_topLevel_context hp.topLevel ht
  cases i with
  | init => exact .inl ⟨rfl, (execInit_cases ht).2⟩
  | getc => exact absurd (execGetc_cases ht).1 hi
  | putc b => exact absurd (execPutc_cases ht).1 hi
  | arm c p => exact absurd rfl hagent
  | disarm c => exact absurd rfl hagent
  | rearm1 c d => exact absurd rfl hagent
  | txstart => exact absurd rfl hagent
  | edge =>
    have he : edgeEnable s = false := by simp [edgeEnable, hp.initialised]
    cases (edgeHandler_disabled he).symm.trans ht
    exact .inr rfl
  | rxtick l => exact absurd (rxTickHandler_cases ht).1 hi
  | txtick => exact absurd (txTickHandler_cases ht).1 hi
  | clk l =>
    cases (execClk_before_init hp.initialised).symm.trans ht
    exact .inr rfl

/-- Every operation keeps the invariant of the machine (R37, R240). -/
theorem Inv.after_exec (h : Inv s) (ht : exec i s = .next t) : Inv t := by
  obtain hp | hr := h
  · obtain ⟨-, rfl⟩ | rfl := hp.exec_cases ht
    · exact .inr hp.initialise_running
    · exact .inl hp
  · exact .inr (hr.after_exec ht)

/-- A completed step takes the oldest thing delivered, and it was the store of a returned byte or an
operation that completed (R9, R161). -/
theorem step_cases (ht : step s = .next t) :
    ∃ rest : List Delivered, t = storeReturned { s with input := rest } ∨
      ∃ i, exec i { s with input := rest } = .next t := by
  cases hin : s.input with
  | nil =>
    rw [step_empty hin] at ht
    cases ht
  | cons d rest =>
    refine ⟨rest, ?_⟩
    cases d with
    | storeByte =>
      rw [step_storeByte hin] at ht
      cases ht
      exact .inl rfl
    | op w =>
      cases hw : decode w with
      | error why => simp [step, fetch, hin, hw] at ht
      | ok i =>
        rw [step_op hin hw] at ht
        exact .inr ⟨i, ht⟩

/-- Settles O48: a step takes the oldest thing delivered, which no clause reads, and then stores a byte outside
the block or performs an operation. -/
theorem stepKeepsInvariant : Obligations.StepKeepsInvariant := by
  intro s t h ht
  obtain ⟨rest, rfl | ⟨i, ht⟩⟩ := step_cases ht
  · obtain ⟨b, hb⟩ := storeReturned_frame { s with input := rest }
    rw [hb]
    exact h.withUnread rest b
  · exact (h.withUnread rest s.callerByte).after_exec ht

/-- Settles O47: the state at power-on is a block before its `INIT`. -/
theorem powerOnMeetsInvariant : Obligations.PowerOnMeetsInvariant :=
  ⟨.inl ⟨rfl, rfl, rfl, rfl, rfl⟩, rfl, rfl, rfl, rfl⟩

/-- Settles O49: `INIT` is not refused before `INIT`, and what it leaves is at rest. -/
theorem initEstablishesInvariant : Obligations.InitEstablishesInvariant := by
  intro s hp
  refine ⟨initialise s, ?_, hp.initialise_running, rfl⟩
  simp [exec, execInit, hp.initialised]

end Sys2Proof.Machine
end

section
/-! What a timer operation writes: the one channel it names (R30, R101 to R103). -/

namespace Sys2Proof.Machine

variable {s t : State} {c : Chan} {p : Nat}

/-- Writing a channel with what it holds changes nothing. -/
theorem setChan_chan (c : Chan) (s : State) : setChan c (s.chan c) s = s := by cases c <;> rfl

/-- A completed `ARM` leaves its channel armed and writes nothing else (R101). -/
theorem arm_writes (ht : arm c p s = .next t) : ∃ v : Channel, t = setChan c v s ∧ v.armed = true := by
  obtain ⟨-, ⟨ha, rfl⟩ | ⟨-, rfl⟩⟩ := arm_cases ht
  · exact ⟨_, (setChan_chan c t).symm, ha⟩
  · exact ⟨_, rfl, rfl⟩

/-- Settles O20: each of the three writes the registers of its own channel, `ARM` and `REARM1` with the armed
bit set. -/
theorem timerOperationsFrame : Obligations.TimerOperationsFrame := by
  intro i s t c hi ht
  have hwrite : ∃ v : Channel, t = setChan c v s ∧ (i ≠ .disarm c → v.armed = true) := by
    obtain rfl | ⟨p, rfl⟩ | ⟨d, rfl⟩ := hi
    · obtain ⟨-, rfl⟩ := execDisarm_cases ht
      exact ⟨_, rfl, fun h => absurd rfl h⟩
    · obtain ⟨v, rfl, ha⟩ := arm_writes (onlyInside_eq_next.1 ht).2
      exact ⟨v, rfl, fun _ => ha⟩
    · obtain ⟨-, rfl⟩ := rearm1_cases (onlyInside_eq_next.1 ht).2
      exact ⟨_, rfl, fun _ => rfl⟩
  obtain ⟨v, rfl, ha⟩ := hwrite
  exact ⟨fun d hd => chan_setChan_other s c d v hd.symm, by simp, by simp, by simp, by simp, by simp,
    by simp, by simp [SameSurroundings], by simpa using ha⟩

end Sys2Proof.Machine
end

section
/-! The error flags: a receive firing in `StopExpected` alone sets them, and nothing but `INIT` clears them
(R33, R202, R203). -/

namespace Sys2Proof.Machine

variable {s t u : State} {c : Chan} {l : Level} {b : Byte}

/-- What a receive firing with the pin at `l` may do to the error flags: they are sticky, `err.framing` is set by
a low stop sample, `err.overrun` by a stop sample that finds the slot full (R126, R127). -/
structure FlagsFollow (l : Level) (s t : State) : Prop where
  framingSticky : s.err.framing = true → t.err.framing = true
  overrunSticky : s.err.overrun = true → t.err.overrun = true
  framingCause : s.err.framing = false → t.err.framing = true → s.rx.phase = .stopExpected ∧ l = false
  overrunCause : s.err.overrun = false → t.err.overrun = true →
    s.rx.phase = .stopExpected ∧ s.mb.receivedReady = true

theorem FlagsFollow.of_err_eq (h : t.err = s.err) : FlagsFollow l s t := by
  constructor <;> simp +contextual [h]

/-- A deposit raises `err.overrun` exactly where it finds the slot full (R127). -/
@[simp] theorem deposit_err (b : Byte) (s : State) :
    (deposit b s).err = { s.err with overrun := s.err.overrun || s.mb.receivedReady } := by
  cases hr : s.mb.receivedReady with
  | false => simp [deposit_empty hr]
  | true =>
    cases hp : s.cfg.overrun with
    | dropNew => simp [deposit_dropNew hr hp]
    | overwrite => simp [deposit_overwrite hr hp]

/-- A stop sample raises `err.framing` exactly where it is low, and `err.overrun` only over a full slot (R126). -/
theorem rxStopByte_err (l : Level) (s : State) :
    ∃ full : Bool, (full = true → s.mb.receivedReady = true) ∧
      (rxStopByte l s).err =
        { framing := s.err.framing || !l, overrun := s.err.overrun || full } := by
  cases l with
  | true => exact ⟨s.mb.receivedReady, id, by simp [rxStopByte]⟩
  | false =>
    cases hp : s.cfg.framing with
    | deliver => exact ⟨s.mb.receivedReady, id, by simp [rxStopByte, hp]⟩
    | discard => exact ⟨false, by simp, by simp [rxStopByte, hp]⟩

theorem rxStopBody_flags (hp : s.rx.phase = .stopExpected) (l : Level) :
    FlagsFollow l s (rxStopBody l s) := by
  obtain ⟨full, hfull, herr⟩ := rxStopByte_err l (disarm .rx s)
  have herr : (rxStopBody l s).err =
      { framing := s.err.framing || !l, overrun := s.err.overrun || full } := herr
  constructor
  · simp +contextual [herr]
  · simp +contextual [herr]
  · simp +contextual [herr, hp]
  · intro h0 h1
    exact ⟨hp, hfull (by simpa [herr, h0] using h1)⟩

/-- Only a firing in `StopExpected` writes the error flags (R122, R124, R126). -/
theorem rxTickHandler_flags (ht : rxTickHandler l s = .next t) : FlagsFollow l s t := by
  obtain ⟨-, -, ht⟩ := rxTickHandler_cases ht
  obtain ⟨v, hv⟩ := fire_frame .rx s
  rw [hv] at ht
  obtain ⟨-, -, rfl⟩ | ⟨-, -, ht⟩ | ⟨i, -, rfl⟩ | ⟨hp, rfl⟩ := rxBody_cases ht
  · exact .of_err_eq (by simp [disarm])
  · obtain ⟨w, rfl, -⟩ := arm_writes ht
    exact .of_err_eq (by simp)
  · exact .of_err_eq (by simp [rxDataBody])
  · obtain ⟨h1, h2, h3, h4⟩ := rxStopBody_flags hp l
    exact ⟨by simpa using h1, by simpa using h2, by simpa using h3, by simpa using h4⟩

theorem clockChan_rx_flags (ht : clockChan .rx (rxTickHandler l) s = .next t) : FlagsFollow l s t := by
  obtain ⟨-, rfl⟩ | ⟨-, -, rfl⟩ | ⟨-, -, ht⟩ := clockChan_cases ht
  · exact .of_err_eq rfl
  · exact .of_err_eq (by simp [countDown])
  · rw [rxTickHandler_countDown] at ht
    exact rxTickHandler_flags ht

theorem clockChan_tx_receiveSide (ht : clockChan .tx txTickHandler s = .next t) :
    SameReceiveSide s t := by
  obtain ⟨-, rfl⟩ | ⟨-, -, rfl⟩ | ⟨-, -, ht⟩ := clockChan_cases ht
  · exact .refl _
  · exact setChan_tx_receiveSide _ _
  · rw [txTickHandler_countDown] at ht
    exact txTickHandler_receiveSide ht

/-- The flags depend on the receive side and are written on it alone, so what comes before the firing on the
transmit side and after it in the edge detector makes no difference. -/
theorem FlagsFollow.of_receiveSide {v : State} (hs : SameReceiveSide s u) (h : FlagsFollow l u v)
    (ht : t.err = v.err) : FlagsFollow l s t := by
  obtain ⟨hrx, -, -, -, hready, herr⟩ := hs
  obtain ⟨h1, h2, h3, h4⟩ := h
  rw [herr] at h1 h2 h3 h4
  rw [hrx] at h3 h4
  rw [hready] at h4
  rw [← ht] at h1 h2 h3 h4
  exact ⟨h1, h2, h3, h4⟩

theorem clockEdge_err (ht : clockEdge l s = .next t) : t.err = s.err := by
  obtain ⟨w, rfl, ⟨-, hw⟩ | ⟨-, rfl⟩⟩ := clockEdge_cases ht
  · simpa using edgeHandler_err hw
  · simp

theorem execClk_flags (ht : execClk l s = .next t) : FlagsFollow l s t := by
  cases hi : s.ctl.initialised with
  | false =>
    rw [execClk_before_init hi] at ht
    cases ht
    exact .of_err_eq rfl
  | true =>
    obtain ⟨u, v, hu, hv, ht⟩ := execClk_cases hi ht
    exact .of_receiveSide (clockChan_tx_receiveSide hu) (clockChan_rx_flags hv) (clockEdge_err ht)

/-- Settles O55: only a receive firing writes the flags, and it does so in `StopExpected`. -/
theorem errorFlagsSticky : Obligations.ErrorFlagsSticky := by
  intro i s t ht hi
  obtain rfl | ⟨l, hrx⟩ | herr := exec_err ht
  · exact absurd rfl hi
  · have hflags : FlagsFollow l s t := by
      obtain rfl | rfl := hrx
      · exact rxTickHandler_flags ht
      · exact execClk_flags ht
    obtain ⟨h1, h2, h3, h4⟩ := hflags
    refine ⟨h1, h2, fun h0 h => ?_, fun h0 h => ?_⟩
    · obtain ⟨hp, rfl⟩ := h3 h0 h
      exact ⟨hp, hrx⟩
    · obtain ⟨hp, hfull⟩ := h4 h0 h
      exact ⟨hp, hfull, l, hrx⟩
  · simp +contextual [herr]

end Sys2Proof.Machine
end

section
/-! The two directions: the application's operations keep to their own side, and a running block draws no free byte
(R29, R40; log 8). -/

namespace Sys2Proof.Machine

variable {s t u : State} {c : Chan} {p : Nat} {l : Level} {b : Byte} {i : Instr}

theorem execGetc_transmitSide (ht : execGetc s = .next t) : SameTransmitSide s t := by
  obtain ⟨-, ⟨-, rfl⟩ | ⟨-, rfl⟩⟩ := execGetc_cases ht
  · simp [SameTransmitSide, takeReceived]
  · simp [SameTransmitSide]

theorem execPutc_receiveSide (ht : execPutc b s = .next t) : SameReceiveSide s t := by
  obtain ⟨-, ⟨-, rfl⟩ | ⟨-, u, hu, rfl⟩⟩ := execPutc_cases ht
  · simp [SameReceiveSide]
  · have hput : SameReceiveSide s (setTransmitBusy true (memWrite .transmit (some b) s)) := by
      simp [SameReceiveSide]
    exact (hput.trans (txStart_receiveSide hu)).trans (by simp [SameReceiveSide])

/-- `TXSTART` draws no free byte where I2 of R37 holds (R140; log 8). -/
theorem txStart_draws (hslot : s.mb.transmitBusy = s.mb.transmitByte.isSome)
    (ht : txStart s = .next t) : t.draws = s.draws := by
  obtain ⟨-, rfl⟩ | ⟨⟨-, hb⟩, ht⟩ := txStart_cases ht
  · rfl
  · obtain ⟨b, hbyte⟩ := Option.isSome_iff_exists.1 (hslot.symm.trans hb)
    obtain ⟨v, rfl, -⟩ := arm_writes ht
    simp [withdraw_byte hbyte]

theorem txTickHandler_draws (hslot : s.mb.transmitBusy = s.mb.transmitByte.isSome)
    (ht : txTickHandler s = .next t) : t.draws = s.draws := by
  obtain ⟨-, -, ht⟩ := txTickHandler_cases ht
  obtain ⟨v, hv⟩ := fire_frame .tx s
  rw [hv] at ht
  obtain ⟨-, rfl⟩ | ⟨i, -, rfl⟩ | ⟨-, ht⟩ := txBody_cases ht
  · simp [txStartBitEnd]
  · unfold txDataBitEnd
    split <;> simp
  · have hdraws := txStart_draws (by simpa [disarm] using hslot) ht
    simpa [disarm] using hdraws

@[simp] theorem deposit_draws (b : Byte) (s : State) : (deposit b s).draws = s.draws := by
  obtain ⟨_, _, _, h⟩ := deposit_frame b s
  rw [h]

@[simp] theorem rxStopByte_draws (l : Level) (s : State) : (rxStopByte l s).draws = s.draws := by
  cases l with
  | true => exact deposit_draws _ _
  | false => cases hp : s.cfg.framing <;> simp [rxStopByte, hp]

/-- A receive firing takes no byte from a slot (R121). -/
theorem rxTickHandler_draws (ht : rxTickHandler l s = .next t) : t.draws = s.draws := by
  obtain ⟨-, -, ht⟩ := rxTickHandler_cases ht
  obtain ⟨v, hv⟩ := fire_frame .rx s
  rw [hv] at ht
  obtain ⟨-, -, rfl⟩ | ⟨-, -, ht⟩ | ⟨i, -, rfl⟩ | ⟨-, rfl⟩ := rxBody_cases ht
  · simp [disarm]
  · obtain ⟨w, rfl, -⟩ := arm_writes ht
    simp
  · simp [rxDataBody]
  · simp [rxStopBody, disarm]

theorem edgeHandler_draws (ht : edgeHandler s = .next t) : t.draws = s.draws := by
  obtain ⟨-, rfl⟩ | ⟨-, rfl⟩ := edgeHandler_cases ht <;> simp

theorem clockChan_draws {k : State → Result} (hk : k (countDown c s) = k s)
    (hdraws : ∀ t, k s = .next t → t.draws = s.draws) (ht : clockChan c k s = .next t) :
    t.draws = s.draws := by
  obtain ⟨-, rfl⟩ | ⟨-, -, rfl⟩ | ⟨-, -, ht⟩ := clockChan_cases ht
  · rfl
  · simp [countDown]
  · exact hdraws t (hk ▸ ht)

theorem execClk_draws (hr : Running s) (ht : execClk l s = .next t) : t.draws = s.draws := by
  obtain ⟨u, v, hu, hv, ht⟩ := execClk_cases hr.initialised ht
  have hsu := clockChan_draws (txTickHandler_countDown s)
    (fun _ => txTickHandler_draws hr.ok.busyIff) hu
  have huv := clockChan_draws (rxTickHandler_countDown l u) (fun _ => rxTickHandler_draws) hv
  obtain ⟨w, rfl, ⟨-, hw⟩ | ⟨-, rfl⟩⟩ := clockEdge_cases ht
  · exact ((edgeHandler_draws hw).trans huv).trans hsu
  · exact huv.trans hsu

/-- A `GETC` draws no free byte where I1 of R37 holds (R160; log 8). -/
theorem execGetc_draws (hslot : s.mb.receivedReady = s.mb.receivedByte.isSome)
    (ht : execGetc s = .next t) : t.draws = s.draws := by
  obtain ⟨-, ⟨hready, rfl⟩ | ⟨-, rfl⟩⟩ := execGetc_cases ht
  · obtain ⟨b, hbyte⟩ := Option.isSome_iff_exists.1 (hslot.symm.trans hready)
    simp [takeReceived, hbyte]
  · simp

theorem execPutc_draws (ht : execPutc b s = .next t) : t.draws = s.draws := by
  obtain ⟨-, ⟨-, rfl⟩ | ⟨-, u, hu, rfl⟩⟩ := execPutc_cases ht
  · simp
  · have hdraws := txStart_draws (by simp) hu
    simpa using hdraws

/-- No operation of a running block takes a byte from an empty slot (R37 I1, I2; log 8). -/
theorem Running.exec_draws (hr : Running s) (ht : exec i s = .next t) : t.draws = s.draws := by
  have hagent := exec_topLevel_context hr.topLevel ht
  cases i with
  | init =>
    obtain ⟨hi, -⟩ := execInit_cases ht
    simp [hr.initialised] at hi
  | getc => exact execGetc_draws hr.ok.readyIff ht
  | putc b => exact execPutc_draws ht
  | arm c p => exact absurd rfl hagent
  | disarm c => exact absurd rfl hagent
  | rearm1 c d => exact absurd rfl hagent
  | txstart => exact absurd rfl hagent
  | edge => exact edgeHandler_draws ht
  | rxtick l => exact rxTickHandler_draws ht
  | txtick => exact txTickHandler_draws hr.ok.busyIff ht
  | clk l => exact execClk_draws hr ht

/-- No operation writes the caller's byte (R61, R161). -/
theorem exec_callerByte (ht : exec i s = .next t) : t.callerByte = s.callerByte := by
  obtain ⟨-, rfl⟩ | ⟨-, r, u, ⟨-, -, -, -, hcaller, -⟩, rfl⟩ | ⟨-, -, -, -, hcaller, -⟩ :=
    exec_setting ht
  · rfl
  · exact hcaller
  · exact hcaller

/-- Settles O57: each handler leaves the other side, and the invariant keeps a flag and its slot together. -/
theorem directionsIndependent : Obligations.DirectionsIndependent := by
  refine fun i s t ht => ⟨?_, ?_, fun hr => ⟨exec_callerByte ht, hr.exec_draws ht⟩⟩
  · rintro (rfl | rfl | ⟨l, rfl⟩)
    · exact edgeHandler_transmitSide ht
    · exact execGetc_transmitSide ht
    · exact rxTickHandler_transmitSide ht
  · rintro (rfl | rfl | ⟨b, rfl⟩)
    · exact txTickHandler_receiveSide ht
    · exact txStart_receiveSide (onlyInside_eq_next.1 ht).2
    · exact execPutc_receiveSide ht

end Sys2Proof.Machine
end

section
/-! The numeric codes of the phase registers (R39). -/

namespace Sys2Proof.Machine

/-- The eight data-bit phases hold the codes 2 to 9 (R39). -/
theorem toNat_ofNat_dataCode (i : Fin 8) : (BitVec.ofNat 4 (2 + i.val)).toNat = 2 + i.val := by
  rw [BitVec.toNat_ofNat]
  omega

/-- Codes 11 to 15 are none of the codes that a phase holds (R39). -/
theorem code_unused {c : BitVec 4} (hc : 11 ≤ c.toNat) :
    c ≠ 0 ∧ c ≠ 1 ∧ ¬(2 ≤ c.toNat ∧ c.toNat ≤ 9) ∧ c ≠ 10 := by
  refine ⟨?_, ?_, by omega, ?_⟩ <;> (rintro rfl; revert hc; decide)

theorem RxPhase.ofCode_code (p : RxPhase) : RxPhase.ofCode p.code = some p := by
  cases p with
  | idle => rfl
  | startDetected => rfl
  | samplingBit i => revert i; decide
  | stopExpected => rfl

theorem TxPhase.ofCode_code (p : TxPhase) : TxPhase.ofCode p.code = some p := by
  cases p with
  | idle => rfl
  | sendingStart => rfl
  | sendingBit i => revert i; decide
  | sendingStop => rfl

/-- Settles O6: each code reads back as its phase, and above 10 none does. -/
theorem phaseCodesNameThePhases : Obligations.PhaseCodesNameThePhases := by
  refine ⟨rfl, rfl, rfl, toNat_ofNat_dataCode, rfl, rfl, rfl, toNat_ofNat_dataCode,
    RxPhase.ofCode_code, TxPhase.ofCode_code, fun c hc => ?_⟩
  obtain ⟨h0, h1, hdata, h10⟩ := code_unused hc
  exact ⟨by simp only [RxPhase.ofCode, h0, h1, hdata, h10, if_false, dite_false],
    by simp only [TxPhase.ofCode, h0, h1, hdata, h10, if_false, dite_false]⟩

end Sys2Proof.Machine
end

section
/-! Diagnostic state is written and never read: replacing the error flags, the outputs shown and the caller's byte
commutes with every operation, which adds to the first two (R33, R36, R161). -/

namespace Sys2Proof.Machine

variable {s t u : State} {c : Chan} {p : Nat} {l : Level} {b : Byte} {e : ErrFlags} {o : List Output}
  {k k' : State → Result}

/-- The state with other error flags, outputs and caller's byte. -/
def withDiagnostics (e : ErrFlags) (o : List Output) (b : Byte) (s : State) : State :=
  { s with err := e, outputs := o, callerByte := b }

@[simp] theorem withDiagnostics_cfg : (withDiagnostics e o b s).cfg = s.cfg := rfl
@[simp] theorem withDiagnostics_rx : (withDiagnostics e o b s).rx = s.rx := rfl
@[simp] theorem withDiagnostics_tx : (withDiagnostics e o b s).tx = s.tx := rfl
@[simp] theorem withDiagnostics_mb : (withDiagnostics e o b s).mb = s.mb := rfl
@[simp] theorem withDiagnostics_tm : (withDiagnostics e o b s).tm = s.tm := rfl
@[simp] theorem withDiagnostics_pin : (withDiagnostics e o b s).pin = s.pin := rfl
@[simp] theorem withDiagnostics_ctl : (withDiagnostics e o b s).ctl = s.ctl := rfl
@[simp] theorem withDiagnostics_nesting : (withDiagnostics e o b s).nesting = s.nesting := rfl
@[simp] theorem withDiagnostics_chan : (withDiagnostics e o b s).chan c = s.chan c := by cases c <;> rfl

@[simp] theorem slotByte_withDiagnostics (v : Option Byte) :
    slotByte v (withDiagnostics e o b s) = slotByte v s := rfl
@[simp] theorem edgeEnable_withDiagnostics : edgeEnable (withDiagnostics e o b s) = edgeEnable s := rfl
@[simp] theorem fallingEdge_withDiagnostics :
    fallingEdge l (withDiagnostics e o b s) = fallingEdge l s := rfl

/-! The writes that reach none of the three commute with the replacement. -/

@[simp] theorem setRx_withDiagnostics (v : RxState) :
    setRx v (withDiagnostics e o b s) = withDiagnostics e o b (setRx v s) := rfl
@[simp] theorem setTx_withDiagnostics (v : TxState) :
    setTx v (withDiagnostics e o b s) = withDiagnostics e o b (setTx v s) := rfl
@[simp] theorem setPinTx_withDiagnostics :
    setPinTx l (withDiagnostics e o b s) = withDiagnostics e o b (setPinTx l s) := rfl
@[simp] theorem setRxPrev_withDiagnostics :
    setRxPrev l (withDiagnostics e o b s) = withDiagnostics e o b (setRxPrev l s) := rfl
@[simp] theorem setReceivedReady_withDiagnostics (v : Bool) :
    setReceivedReady v (withDiagnostics e o b s) = withDiagnostics e o b (setReceivedReady v s) := rfl
@[simp] theorem setTransmitBusy_withDiagnostics (v : Bool) :
    setTransmitBusy v (withDiagnostics e o b s) = withDiagnostics e o b (setTransmitBusy v s) := rfl
@[simp] theorem memWrite_withDiagnostics (x : Cell) (v : Option Byte) :
    memWrite x v (withDiagnostics e o b s) = withDiagnostics e o b (memWrite x v s) := by
  cases x <;> rfl
@[simp] theorem noteDraw_withDiagnostics (v : Option Byte) :
    noteDraw v (withDiagnostics e o b s) = withDiagnostics e o b (noteDraw v s) := by
  cases v <;> rfl
@[simp] theorem setChan_withDiagnostics (v : Channel) :
    setChan c v (withDiagnostics e o b s) = withDiagnostics e o b (setChan c v s) := by
  cases c <;> rfl
@[simp] theorem disarm_withDiagnostics :
    disarm c (withDiagnostics e o b s) = withDiagnostics e o b (disarm c s) := by
  simp [disarm]
@[simp] theorem countDown_withDiagnostics :
    countDown c (withDiagnostics e o b s) = withDiagnostics e o b (countDown c s) := by
  simp [countDown]
@[simp] theorem fire_withDiagnostics :
    fire c (withDiagnostics e o b s) = withDiagnostics e o b (fire c s) := by
  cases ho : (s.chan c).oneShot <;> simp [fire, ho]
@[simp] theorem withdraw_withDiagnostics :
    withdraw (withDiagnostics e o b s) = withDiagnostics e o b (withdraw s) := by
  simp [withdraw]

/-! The writes that reach them add to what was replaced. -/

@[simp] theorem emit_withDiagnostics (x : Output) :
    emit x (withDiagnostics e o b s) = withDiagnostics e (x :: o) b s := rfl
@[simp] theorem signal_withDiagnostics (x : Condition) :
    signal x (withDiagnostics e o b s) = withDiagnostics e (.signal x :: o) b s := rfl
@[simp] theorem setFraming_withDiagnostics :
    setFraming (withDiagnostics e o b s) = withDiagnostics { e with framing := true } o b s := rfl
@[simp] theorem setOverrun_withDiagnostics :
    setOverrun (withDiagnostics e o b s) = withDiagnostics { e with overrun := true } o b s := rfl

/-- The flags raised beside those already set (R33). -/
def raiseFlags (raised e : ErrFlags) : ErrFlags :=
  { framing := e.framing || raised.framing, overrun := e.overrun || raised.overrun }

/-- In a state an operation answers the same whatever the diagnostic state is: the same outputs are added, the
same flags raised, and the rest of the state or the refusal is the same. -/
def BlindAt (k : State → Result) (s : State) : Prop :=
  ∃ (r : Result) (new : List Output) (raised : ErrFlags), ∀ e o b,
    k (withDiagnostics e o b s) =
      andThen r fun t => .next (withDiagnostics (raiseFlags raised e) (new ++ o) b t)

/-! ## How blindness is put together -/

/-- An operation that shows `new` and raises `raised`. -/
theorem BlindAt.shows (t : State) (new : List Output) (raised : ErrFlags)
    (h : ∀ e o b, k (withDiagnostics e o b s) =
      .next (withDiagnostics (raiseFlags raised e) (new ++ o) b t)) : BlindAt k s :=
  ⟨.next t, new, raised, h⟩

/-- An operation that shows and raises nothing. -/
theorem BlindAt.silent (t : State)
    (h : ∀ e o b, k (withDiagnostics e o b s) = .next (withDiagnostics e o b t)) : BlindAt k s :=
  .shows t [] ⟨false, false⟩ fun e o b => by simp [h, raiseFlags]

theorem BlindAt.refused (r : Refusal) (h : ∀ e o b, k (withDiagnostics e o b s) = .refused r) :
    BlindAt k s :=
  ⟨.refused r, [], ⟨false, false⟩, h⟩

/-- An operation that goes on as `k'` from `u`, having shown and raised nothing. -/
theorem BlindAt.goesOn (hk : BlindAt k' u)
    (h : ∀ e o b, k (withDiagnostics e o b s) = k' (withDiagnostics e o b u)) : BlindAt k s := by
  obtain ⟨r, new, raised, hr⟩ := hk
  exact ⟨r, new, raised, fun e o b => (h e o b).trans (hr e o b)⟩

/-- Of two operations in sequence the outputs and the flags raised add up. -/
theorem BlindAt.bind (hk : BlindAt k s) (hk' : ∀ u, BlindAt k' u) :
    BlindAt (fun s => andThen (k s) k') s := by
  obtain ⟨r, new, raised, hr⟩ := hk
  cases r with
  | refused x => exact .refused x fun e o b => by simp [hr]
  | fault f => cases f
  | next u =>
    obtain ⟨r', new', raised', hr'⟩ := hk' u
    refine ⟨r', new' ++ new, raiseFlags raised' raised, fun e o b => ?_⟩
    simp [hr, hr', raiseFlags, Bool.or_assoc]

/-! ## The handlers -/

theorem arm_blind (c : Chan) (p : Nat) (s : State) : BlindAt (arm c p) s := by
  cases hp : intervalOk p with
  | false => exact .refused .badInterval fun e o b => arm_bad hp
  | true =>
    cases ha : (s.chan c).armed with
    | true => exact .silent s fun e o b => arm_armed hp (by simpa using ha)
    | false =>
      refine .silent (setChan c
        { armed := true, oneShot := false, count := ticksOf p, period := ticksOf p } s)
        fun e o b => ?_
      rw [arm_disarmed hp (by simpa using ha), setChan_withDiagnostics]

theorem rearm1_blind (c : Chan) (d : Nat) (s : State) : BlindAt (rearm1 c d) s := by
  cases hd : intervalOk d with
  | false => exact .refused .badInterval fun e o b => rearm1_bad hd
  | true =>
    refine .silent (setChan c
      { s.chan c with armed := true, oneShot := true, count := ticksOf d } s) fun e o b => ?_
    rw [rearm1_ok hd, setChan_withDiagnostics, withDiagnostics_chan]

theorem txStart_blind (s : State) : BlindAt txStart s := by
  by_cases hq : s.tx.phase = .idle ∧ s.mb.transmitBusy = true
  · exact (arm_blind .tx s.cfg.bitPeriod (withdraw s)).goesOn fun e o b => by simp [txStart, hq]
  · exact .silent s fun e o b => txStart_idle hq

theorem txBody_blind (s : State) : BlindAt txBody s := by
  cases hp : s.tx.phase with
  | idle => exact .refused .unreachable fun e o b => by simp only [txBody, withDiagnostics_tx, hp]
  | sendingStart =>
    exact .silent (txStartBitEnd s) fun e o b => by simp [txBody, hp, txStartBitEnd]
  | sendingBit i =>
    refine .silent (txDataBitEnd i s) fun e o b => ?_
    by_cases hi : i.val < 7 <;> simp [txBody, hp, txDataBitEnd, hi]
  | sendingStop =>
    exact (txStart_blind (setTx { phase := .idle, pendingByte := 0, bitsSent := 0 }
      (disarm .tx s))).goesOn fun e o b => by simp [txBody, hp, txStopBitEnd]

theorem txTickHandler_blind (s : State) : BlindAt txTickHandler s := by
  cases hi : s.ctl.initialised with
  | false => exact .refused .notInitialised fun e o b => by simp [txTickHandler, hi]
  | true =>
    cases ha : s.tm.tx.armed with
    | false => exact .refused .spuriousTick fun e o b => by simp [txTickHandler, hi, ha]
    | true => exact (txBody_blind (fire .tx s)).goesOn fun e o b => by simp [txTickHandler, hi, ha]

theorem edgeHandler_blind (s : State) : BlindAt edgeHandler s := by
  cases he : edgeEnable s with
  | false => exact .silent s fun e o b => edgeHandler_disabled (by simpa using he)
  | true =>
    exact (rearm1_blind .rx s.cfg.halfBit
      (setRx { phase := .startDetected, shiftRegister := 0, bitsReceived := 0 } s)).goesOn
      fun e o b => by simp [edgeHandler, he]

/-- A deposit raises `err.overrun` and shows so over a full slot (R127). -/
theorem deposit_blind (x : Byte) (s : State) : BlindAt (fun s => .next (deposit x s)) s := by
  cases hr : s.mb.receivedReady with
  | false =>
    exact .silent (setReceivedReady true (memWrite .received (some x) s)) fun e o b => by
      simp [deposit, hr]
  | true =>
    cases hp : s.cfg.overrun with
    | dropNew =>
      exact .shows s [.signal .receiveOverrun] ⟨false, true⟩ fun e o b => by
        simp [deposit, hr, hp, raiseFlags]
    | overwrite =>
      exact .shows (memWrite .received (some x) s) [.signal .receiveOverrun] ⟨false, true⟩
        fun e o b => by simp [deposit, hr, hp, raiseFlags]

/-- A low stop sample raises `err.framing` and shows so, before the deposit, if any (R126). -/
theorem rxStopByte_blind (l : Level) (s : State) : BlindAt (fun s => .next (rxStopByte l s)) s := by
  have hframing : BlindAt (fun s => .next (setFraming (signal .framingError s))) s :=
    .shows s [.signal .framingError] ⟨true, false⟩ fun e o b => by simp [raiseFlags]
  cases l with
  | true => exact (deposit_blind s.rx.shiftRegister s).goesOn fun e o b => rfl
  | false =>
    cases hp : s.cfg.framing with
    | deliver =>
      exact (hframing.bind (deposit_blind s.rx.shiftRegister)).goesOn fun e o b => by
        simp [rxStopByte, hp]
    | discard => exact hframing.goesOn fun e o b => by simp [rxStopByte, hp]

theorem rxStopBody_blind (l : Level) (s : State) : BlindAt (fun s => .next (rxStopBody l s)) s := by
  have hcleared (u : State) : BlindAt
      (fun s => .next (setRx { phase := .idle, shiftRegister := 0, bitsReceived := 0 } s)) u :=
    .silent (setRx _ u) fun e o b => by rw [setRx_withDiagnostics]
  exact ((rxStopByte_blind l (disarm .rx s)).bind hcleared).goesOn fun e o b => by
    simp [rxStopBody]

theorem rxBody_blind (l : Level) (s : State) : BlindAt (rxBody l) s := by
  cases hp : s.rx.phase with
  | idle => exact .refused .unreachable fun e o b => by simp only [rxBody, withDiagnostics_rx, hp]
  | startDetected =>
    cases l with
    | true =>
      exact .shows (disarm .rx (setRx { s.rx with phase := .idle } s)) [.signal .falseStart]
        ⟨false, false⟩ fun e o b => by simp [rxBody, rxStartBody, hp, raiseFlags]
    | false =>
      exact (arm_blind .rx s.cfg.bitPeriod
        (setRx { s.rx with phase := .samplingBit 0 } s)).goesOn fun e o b => by
          simp [rxBody, rxStartBody, hp]
  | samplingBit i =>
    exact .silent (rxDataBody i l s) fun e o b => by simp [rxBody, hp, rxDataBody]
  | stopExpected => exact (rxStopBody_blind l s).goesOn fun e o b => by simp [rxBody, hp]

theorem rxTickHandler_blind (l : Level) (s : State) : BlindAt (rxTickHandler l) s := by
  cases hi : s.ctl.initialised with
  | false => exact .refused .notInitialised fun e o b => by simp [rxTickHandler, hi]
  | true =>
    cases ha : s.tm.rx.armed with
    | false => exact .refused .spuriousTick fun e o b => by simp [rxTickHandler, hi, ha]
    | true => exact (rxBody_blind l (fire .rx s)).goesOn fun e o b => by simp [rxTickHandler, hi, ha]

/-! ## The operations -/

theorem onlyInside_blind (hk : BlindAt k s) : BlindAt (onlyInside k) s := by
  cases hn : s.nesting with
  | topLevel => exact .refused .internalOnly fun e o b => onlyInside_topLevel _ k hn
  | inside => exact hk.goesOn fun e o b => onlyInside_inside _ k hn

theorem clockChan_blind (c : Chan) (hk : ∀ u, BlindAt k u) (s : State) :
    BlindAt (clockChan c k) s := by
  cases ha : (s.chan c).armed with
  | false => exact .silent s fun e o b => clockChan_disarmed (by simpa using ha)
  | true =>
    by_cases hc : (s.chan c).count = 1
    · refine (hk (countDown c s)).goesOn fun e o b => ?_
      rw [clockChan_fires (by simpa using ha) (by simpa using hc), countDown_withDiagnostics]
    · refine .silent (countDown c s) fun e o b => ?_
      rw [clockChan_counts (by simpa using ha) (by simpa using hc), countDown_withDiagnostics]

theorem clockEdge_blind (l : Level) (s : State) : BlindAt (clockEdge l) s := by
  have hprev (u : State) : BlindAt (fun s => .next (setRxPrev l s)) u :=
    .silent (setRxPrev l u) fun e o b => by rw [setRxPrev_withDiagnostics]
  cases hf : fallingEdge l s with
  | false => exact (hprev s).goesOn fun e o b => by simp [clockEdge, hf]
  | true => exact ((edgeHandler_blind s).bind hprev).goesOn fun e o b => by simp [clockEdge, hf]

theorem execClk_blind (l : Level) (s : State) : BlindAt (execClk l) s := by
  cases hi : s.ctl.initialised with
  | false => exact .silent s fun e o b => execClk_before_init hi
  | true =>
    have hrx (u : State) := (clockChan_blind .rx (rxTickHandler_blind l) u).bind (clockEdge_blind l)
    exact ((clockChan_blind .tx txTickHandler_blind s).bind hrx).goesOn fun e o b =>
      execClk_running hi

theorem emit_blind (x : Output) (s : State) : BlindAt (fun s => .next (emit x s)) s :=
  .shows s [x] ⟨false, false⟩ fun e o b => by simp [raiseFlags]

theorem execGetc_blind (s : State) : BlindAt execGetc s := by
  cases hi : s.ctl.initialised with
  | false => exact .refused .notInitialised fun e o b => by simp [execGetc, hi]
  | true =>
    cases hr : s.mb.receivedReady with
    | true =>
      refine (emit_blind (.getc (some (slotByte s.mb.receivedByte s))) (setReceivedReady false
        (memWrite .received none (noteDraw s.mb.receivedByte s)))).goesOn fun e o b => ?_
      simp [execGetc, hi, hr, takeReceived]
    | false => exact (emit_blind (.getc none) s).goesOn fun e o b => by simp [execGetc, hi, hr]

theorem execPutc_blind (b : Byte) (s : State) : BlindAt (execPutc b) s := by
  cases hi : s.ctl.initialised with
  | false => exact .refused .notInitialised fun e o b => by simp [execPutc, hi]
  | true =>
    cases hb : s.mb.transmitBusy with
    | true =>
      exact .shows s [.putc false, .signal .transmitContention] ⟨false, false⟩
        fun e o b => by simp [execPutc, hi, hb, raiseFlags]
    | false =>
      have hwake := txStart_blind (setTransmitBusy true (memWrite .transmit (some b) s))
      exact (hwake.bind (emit_blind (.putc true))).goesOn fun e o b => by
        simp [execPutc, hi, hb]

/-- Every operation but `INIT`, which clears the flags, only adds to the diagnostic state (R33, R36). -/
theorem exec_blind {i : Instr} (hi : i ≠ .init) (s : State) : BlindAt (exec i) s := by
  cases i with
  | init => exact absurd rfl hi
  | getc => exact execGetc_blind s
  | putc b => exact execPutc_blind b s
  | arm c p => exact onlyInside_blind (arm_blind c p s)
  | disarm c =>
    refine onlyInside_blind (k := fun s => .next (disarm c s)) (.silent (disarm c s) ?_)
    simp
  | rearm1 c d => exact onlyInside_blind (rearm1_blind c d s)
  | txstart => exact onlyInside_blind (txStart_blind s)
  | edge => exact edgeHandler_blind s
  | rxtick l => exact rxTickHandler_blind l s
  | txtick => exact txTickHandler_blind s
  | clk l => exact execClk_blind l s

/-- A state is itself with its own diagnostic state, so what a blind operation answers in it is what it answers
with any other, up to the diagnostic state. -/
theorem BlindAt.of_next (hk : BlindAt k s) (ht : k s = .next t) :
    ∃ (new : List Output) (raised : ErrFlags), ∀ e o b,
      k (withDiagnostics e o b s) = .next (withDiagnostics (raiseFlags raised e) (new ++ o) b t) := by
  obtain ⟨r, new, raised, hr⟩ := hk
  obtain ⟨u, rfl, hu⟩ := andThen_eq_next.1 ((hr s.err s.outputs s.callerByte).symm.trans ht)
  cases hu
  exact ⟨new, raised, hr⟩

theorem BlindAt.of_refused {r : Refusal} (hk : BlindAt k s) (ht : k s = .refused r)
    (e : ErrFlags) (o : List Output) (b : Byte) : k (withDiagnostics e o b s) = .refused r := by
  obtain ⟨r', new, raised, hr⟩ := hk
  obtain rfl | ⟨u, -, hu⟩ :=
    andThen_eq_refused.1 ((hr s.err s.outputs s.callerByte).symm.trans ht)
  · exact hr e o b
  · cases hu

/-- `INIT` is refused, as `INIT` completes, by `ctl.initialised` alone (R166). -/
theorem execInit_refused {r : Refusal} (hr : execInit s = .refused r) :
    execInit (withDiagnostics e o b s) = .refused r := by
  cases hi : s.ctl.initialised with
  | true => simpa [execInit, hi] using hr
  | false => simp [execInit, hi] at hr

/-- Settles O56: every operation but `INIT` is blind, and `INIT` tests `ctl.initialised` alone. -/
theorem diagnosticStateReadByNoOperation : Obligations.DiagnosticStateReadByNoOperation := by
  intro i s
  by_cases hi : i = .init
  · subst hi
    refine ⟨fun t ht => ?_, fun r hr e o b => execInit_refused hr⟩
    obtain ⟨h0, rfl⟩ := execInit_cases ht
    exact ⟨[], ⟨false, false⟩, fun e o b => by simp [exec, execInit, h0, initialise]⟩
  · refine ⟨fun t ht => ?_, fun r hr => (exec_blind hi s).of_refused hr⟩
    obtain ⟨new, raised, h⟩ := (exec_blind hi s).of_next ht
    exact ⟨new, raised, fun e o b => by rw [if_neg hi]; exact h e o b⟩

end Sys2Proof.Machine
end

section
/-! The two slots of the mailbox: each is written by its own direction, the application and `CLK`, and neither by
the timer operations or the edge interrupt (R27, R28, R67). -/

namespace Sys2Proof.Machine

variable {s t : State} {c : Chan} {i : Instr}

/-- The receive slot is the receive side's own (R27). -/
theorem SameReceiveSide.slot_eq (h : SameReceiveSide s t) :
    t.mb.receivedByte = s.mb.receivedByte ∧ t.mb.receivedReady = s.mb.receivedReady := by
  obtain ⟨-, -, -, hbyte, hready, -⟩ := h
  exact ⟨hbyte, hready⟩

/-- The transmit slot is the transmit side's own (R28). -/
theorem SameTransmitSide.slot_eq (h : SameTransmitSide s t) :
    t.mb.transmitByte = s.mb.transmitByte ∧ t.mb.transmitBusy = s.mb.transmitBusy := by
  obtain ⟨-, -, -, hbyte, hbusy⟩ := h
  exact ⟨hbyte, hbusy⟩

/-- The timer operations do not reach the mailbox (R101 to R103). -/
theorem exec_timer_mb (hi : i = .disarm c ∨ (∃ p, i = .arm c p) ∨ ∃ d, i = .rearm1 c d)
    (ht : exec i s = .next t) : t.mb = s.mb := by
  obtain ⟨-, -, -, hmb, -⟩ := timerOperationsFrame i s t c hi ht
  exact hmb

/-- The edge interrupt does not reach the mailbox (R120). -/
theorem edgeHandler_mb (ht : edgeHandler s = .next t) : t.mb = s.mb := by
  obtain ⟨-, rfl⟩ | ⟨-, rfl⟩ := edgeHandler_cases ht <;> simp

/-- What can have written the receive slot (R27, R67). -/
theorem exec_receiveSlot (ht : exec i s = .next t) :
    (i = .init ∨ i = .getc ∨ ∃ l, i = .rxtick l ∨ i = .clk l) ∨
    (t.mb.receivedByte = s.mb.receivedByte ∧ t.mb.receivedReady = s.mb.receivedReady) := by
  cases i with
  | init => exact .inl (.inl rfl)
  | getc => exact .inl (.inr (.inl rfl))
  | rxtick l => exact .inl (.inr (.inr ⟨l, .inl rfl⟩))
  | clk l => exact .inl (.inr (.inr ⟨l, .inr rfl⟩))
  | putc b => exact .inr (execPutc_receiveSide ht).slot_eq
  | txstart => exact .inr (txStart_receiveSide (onlyInside_eq_next.1 ht).2).slot_eq
  | txtick => exact .inr (txTickHandler_receiveSide ht).slot_eq
  | arm c p => simp [exec_timer_mb (.inr (.inl ⟨p, rfl⟩)) ht]
  | disarm c => simp [exec_timer_mb (.inl rfl) ht]
  | rearm1 c d => simp [exec_timer_mb (.inr (.inr ⟨d, rfl⟩)) ht]
  | edge => simp [edgeHandler_mb ht]

/-- What can have written the transmit slot (R28, R67). -/
theorem exec_transmitSlot (ht : exec i s = .next t) :
    (i = .init ∨ i = .txstart ∨ i = .txtick ∨
      ∃ x : Byte × Level, i = .putc x.1 ∨ i = .clk x.2) ∨
    (t.mb.transmitByte = s.mb.transmitByte ∧ t.mb.transmitBusy = s.mb.transmitBusy) := by
  cases i with
  | init => exact .inl (.inl rfl)
  | txstart => exact .inl (.inr (.inl rfl))
  | txtick => exact .inl (.inr (.inr (.inl rfl)))
  | putc b => exact .inl (.inr (.inr (.inr ⟨(b, false), .inl rfl⟩)))
  | clk l => exact .inl (.inr (.inr (.inr ⟨(0, l), .inr rfl⟩)))
  | getc => exact .inr (execGetc_transmitSide ht).slot_eq
  | edge => exact .inr (edgeHandler_transmitSide ht).slot_eq
  | rxtick l => exact .inr (rxTickHandler_transmitSide ht).slot_eq
  | arm c p => simp [exec_timer_mb (.inr (.inl ⟨p, rfl⟩)) ht]
  | disarm c => simp [exec_timer_mb (.inl rfl) ht]
  | rearm1 c d => simp [exec_timer_mb (.inr (.inr ⟨d, rfl⟩)) ht]

/-- Settles O54: an operation that is none of those listed for a slot leaves both cells of it. -/
theorem mailboxReach : Obligations.MailboxReach := by
  refine fun i s t ht => ⟨fun hne => ?_, fun hne => ?_⟩
  · obtain hi | ⟨hbyte, hready⟩ := exec_receiveSlot ht
    · exact hi
    · simp [hbyte, hready] at hne
  · obtain hi | ⟨hbyte, hbusy⟩ := exec_transmitSlot ht
    · exact hi
    · simp [hbyte, hbusy] at hne

end Sys2Proof.Machine
end

section
/-! The operation word read row by row (R85 to R88): which words meet a row of R87, and which operation they
spell. -/

namespace Sys2Proof

variable {f : Fields} {i : Instr} {k : OpKind} {w : OpWord}

/-! ## The must-be-zero checks of the decoder -/

@[simp] theorem Fields.noChannel_ok {m : Except Illegal Instr} :
    f.noChannel m = .ok i ↔ f.ch = false ∧ m = .ok i := by
  simp [Fields.noChannel, requireZero_ok]

@[simp] theorem Fields.noLevel_ok {m : Except Illegal Instr} :
    f.noLevel m = .ok i ↔ f.lvl = false ∧ m = .ok i := by
  simp [Fields.noLevel, requireZero_ok]

@[simp] theorem Fields.noZeroBits_ok {m : Except Illegal Instr} :
    f.noZeroBits m = .ok i ↔ f.zero = 0 ∧ m = .ok i := by
  simp [Fields.noZeroBits, requireZero_ok]

@[simp] theorem Fields.noImmediate_ok {m : Except Illegal Instr} :
    f.noImmediate m = .ok i ↔ f.imm = 0 ∧ m = .ok i := by
  simp [Fields.noImmediate, requireZero_ok]

/-! ## A row of R87 -/

/-- The fields that row `k` leaves unused are zero (R86, R88). -/
def Fields.Blank (f : Fields) (k : OpKind) : Prop :=
  (f.ch = true → k ∈ [.arm, .disarm, .rearm1]) ∧
  (f.lvl = true → k ∈ [.rxtick, .clk]) ∧
  f.zero = 0 ∧
  (f.imm ≠ 0 → k ∈ [.putc, .arm, .rearm1]) ∧
  (k = .putc → f.imm.extractLsb' 8 8 = 0)

/-- The fields are those of a word of row `k` (R87). -/
def Fields.OfRow (f : Fields) (k : OpKind) : Prop := f.opc = k.opcode ∧ f.Blank k

/-- The operation of row `k`, its operands read from the row's free fields (R86, R87). -/
def operationOf (f : Fields) : OpKind → Instr
  | .init => .init
  | .getc => .getc
  | .putc => .putc (f.imm.extractLsb' 0 8)
  | .arm => .arm (chanOfBit f.ch) f.imm.toNat
  | .disarm => .disarm (chanOfBit f.ch)
  | .rearm1 => .rearm1 (chanOfBit f.ch) f.imm.toNat
  | .txstart => .txstart
  | .edge => .edge
  | .rxtick => .rxtick f.lvl
  | .txtick => .txtick
  | .clk => .clk f.lvl

@[simp] theorem operationOf_kind (f : Fields) (k : OpKind) : (operationOf f k).kind = k := by
  cases k <;> rfl

theorem operationOf_wellFormed (f : Fields) (k : OpKind) : (operationOf f k).wellFormed = true := by
  cases k with
  | arm | rearm1 => exact decide_eq_true f.imm.isLt
  | _ => rfl

@[simp] theorem chanBit_chanOfBit (b : Bool) : chanBit (chanOfBit b) = b := by cases b <;> rfl

/-- A 16-bit immediate is its two bytes. -/
theorem highByte_append_lowByte (imm : BitVec 16) :
    imm.extractLsb' 8 8 ++ imm.extractLsb' 0 8 = imm :=
  (BitVec.extractLsb'_append_extractLsb'_eq_extractLsb' rfl).trans BitVec.extractLsb'_eq_self

/-- An immediate whose high byte is zero is its low byte (R86). -/
theorem setWidth_lowByte {imm : BitVec 16} (h : imm.extractLsb' 8 8 = 0#8) :
    (imm.extractLsb' 0 8).setWidth 16 = imm := by
  calc (imm.extractLsb' 0 8).setWidth 16
      = 0#8 ++ imm.extractLsb' 0 8 := BitVec.setWidth_eq_append (by decide)
    _ = imm := by rw [← h, highByte_append_lowByte]

/-- An operation read from the fields of its row is spelled with those fields (R85 to R87). -/
theorem fieldsOf_operationOf (h : f.OfRow k) : fieldsOf (operationOf f k) = f := by
  obtain ⟨hopc, hch, hlvl, hzero, himm, hhigh⟩ := h
  obtain ⟨opc, ch, lvl, zero, imm⟩ := f
  cases k <;> simp_all [fieldsOf, operationOf, setWidth_lowByte]

/-- A word with a row's operation code decodes exactly when the row's unused fields are zero (R88), and then to
the row's operation. -/
theorem decodeFields_of_opc (h : f.opc = k.opcode) :
    decodeFields f = .ok i ↔ f.Blank k ∧ i = operationOf f k := by
  cases k <;>
    simp [decodeFields, h, OpKind.opcode, Fields.bare, requireZero_ok, Fields.Blank, operationOf,
      eq_comm (a := i), and_assoc]

/-- Every operation code is 0, or reserved, or that of a row (R87, R88). -/
theorem opcode_cases : ∀ o : BitVec 4, o = 0x0#4 ∨ 0xC ≤ o.toNat ∨ ∃ r ∈ opRows, o = r.kind.opcode := by
  decide

theorem OpKind.opcode_bounds (k : OpKind) : k.opcode ≠ 0x0#4 ∧ k.opcode.toNat < 0xC := by
  cases k <;> decide

/-- A word with operation code 0 or a reserved one spells no operation (R88). -/
theorem decodeFields_of_noRow (h : f.opc = 0x0#4 ∨ 0xC ≤ f.opc.toNat) : decodeFields f ≠ .ok i := by
  obtain h | h := h
  · simp [decodeFields, h]
  · unfold decodeFields
    split
    case h_13 => simp
    all_goals omega

/-- A word spells exactly the operation of the row its fields are of, its operands the row's free fields (R87). -/
theorem decode_eq_ok :
    decode w = .ok i ↔ ∃ k, (fields w).OfRow k ∧ i = operationOf (fields w) k := by
  rw [decode]
  constructor
  · intro h
    obtain h0 | hC | ⟨r, -, hopc⟩ := opcode_cases (fields w).opc
    · exact absurd h (decodeFields_of_noRow (.inl h0))
    · exact absurd h (decodeFields_of_noRow (.inr hC))
    · obtain ⟨hblank, hi⟩ := (decodeFields_of_opc hopc).1 h
      exact ⟨r.kind, ⟨hopc, hblank⟩, hi⟩
  · rintro ⟨k, ⟨hopc, hblank⟩, hi⟩
    exact (decodeFields_of_opc hopc).2 ⟨hblank, hi⟩

/-- A decoder's answer is an error exactly when it is no operation (R88). -/
theorem exists_error_iff {m : Except Illegal Instr} : (∃ why, m = .error why) ↔ ∀ i, m ≠ .ok i := by
  cases m <;> simp

/-- R88's list: exactly these fields spell no operation. -/
theorem decodeFields_error_iff (f : Fields) : (∃ why, decodeFields f = .error why) ↔
    (f.opc = 0x0#4 ∨ 0xC ≤ f.opc.toNat ∨ f.zero ≠ 0 ∨
      (f.ch = true ∧ f.opc ∉ [0x4#4, 0x5#4, 0x6#4]) ∨
      (f.lvl = true ∧ f.opc ∉ [0x9#4, 0xB#4]) ∨
      (f.imm ≠ 0 ∧ f.opc ∉ [0x3#4, 0x4#4, 0x6#4]) ∨
      (f.opc = 0x3#4 ∧ f.imm.extractLsb' 8 8 ≠ 0)) := by
  rw [exists_error_iff]
  obtain h0 | hC | ⟨r, -, hopc⟩ := opcode_cases f.opc
  · exact iff_of_true (fun i => decodeFields_of_noRow (.inl h0)) (.inl h0)
  · exact iff_of_true (fun i => decodeFields_of_noRow (.inr hC)) (.inr (.inl hC))
  · generalize r.kind = k at hopc
    have hch : k.opcode ∈ [0x4#4, 0x5#4, 0x6#4] ↔ k ∈ [.arm, .disarm, .rearm1] := by
      cases k <;> decide
    have hlvl : k.opcode ∈ [0x9#4, 0xB#4] ↔ k ∈ [.rxtick, .clk] := by cases k <;> decide
    have himm : k.opcode ∈ [0x3#4, 0x4#4, 0x6#4] ↔ k ∈ [.putc, .arm, .rearm1] := by
      cases k <;> decide
    have hputc : k.opcode = 0x3#4 ↔ k = .putc := by cases k <;> decide
    obtain ⟨hne, hlt⟩ := k.opcode_bounds
    have hnone : (∀ i, decodeFields f ≠ .ok i) ↔ ¬f.Blank k := by
      simp [decodeFields_of_opc hopc]
    rw [hnone, hopc, hch, hlvl, himm, hputc, Fields.Blank]
    simp only [not_and_or, Classical.not_imp, hne, hlt.not_ge, false_or, ne_eq, or_left_comm]

/-! ## The masks of R87 -/

/-- The fields of a masked word are the masked fields. -/
theorem fields_and (w m : OpWord) : fields (w &&& m) =
    { opc := (fields w).opc &&& (fields m).opc
      ch := (fields w).ch && (fields m).ch
      lvl := (fields w).lvl && (fields m).lvl
      zero := (fields w).zero &&& (fields m).zero
      imm := (fields w).imm &&& (fields m).imm } := by
  simp [fields, BitVec.extractLsb'_and]

theorem fields_inj {v : OpWord} : fields w = fields v ↔ w = v :=
  ⟨fun h => by rw [← wordOf_fields w, h, wordOf_fields], fun h => h ▸ rfl⟩

/-- `PUTC`'s mask on the immediate tests the high byte (R87). -/
theorem and_highByteMask (imm : BitVec 16) :
    imm &&& 0xFF00#16 = 0#16 ↔ imm.extractLsb' 8 8 = 0#8 := by
  have hand : imm &&& 0xFF00#16 = imm.extractLsb' 8 8 ++ 0#8 := by
    calc imm &&& 0xFF00#16
        = (imm.extractLsb' 8 8 ++ imm.extractLsb' 0 8) &&& (BitVec.allOnes 8 ++ 0#8) := by
          rw [highByte_append_lowByte]
          rfl
      _ = imm.extractLsb' 8 8 ++ 0#8 := by
          rw [BitVec.and_append, BitVec.and_allOnes, BitVec.and_zero]
  rw [hand]
  exact BitVec.append_left_inj (s₂ := 0#8) 0#8

/-- A word meets a row's mask and match exactly when its fields are of that row (R87). -/
theorem spells_iff {r : OpRow} (hr : r ∈ opRows) : r.spells w = true ↔ (fields w).OfRow r.kind := by
  rw [OpRow.spells, decide_eq_true_iff, ← fields_inj, fields_and]
  generalize fields w = f
  have hopc : f.opc &&& 0xF#4 = f.opc := BitVec.and_allOnes
  have hzero : f.zero &&& 0x3FF#10 = f.zero := BitVec.and_allOnes
  have himm : f.imm &&& 0xFFFF#16 = f.imm := BitVec.and_allOnes
  simp only [opRows, List.mem_cons, List.not_mem_nil, or_false] at hr
  rcases hr with rfl | rfl | rfl | rfl | rfl | rfl | rfl | rfl | rfl | rfl | rfl <;>
    simp [fields, Fields.OfRow, Fields.Blank, OpKind.opcode, hopc, hzero, himm, and_highByteMask]

/-- Two rows with one operation code are one row (R87). -/
theorem opRows_opcode_inj :
    ∀ r ∈ opRows, ∀ r' ∈ opRows, r.kind.opcode = r'.kind.opcode → r = r' := by
  decide

/-- A word that meets a row spells that row's operation (R87). -/
theorem OpRow.decode_of_spells {r : OpRow} (hr : r ∈ opRows) (hw : r.spells w = true) :
    decode w = .ok (operationOf (fields w) r.kind) :=
  decode_eq_ok.2 ⟨r.kind, (spells_iff hr).1 hw, rfl⟩

/-- A word that spells an operation meets that operation's row (R87). -/
theorem exists_row_of_decode (h : decode w = .ok i) :
    ∃ r ∈ opRows, r.spells w = true ∧ r.kind = i.kind := by
  obtain ⟨k, hrow, rfl⟩ := decode_eq_ok.1 h
  have hk : ∃ r ∈ opRows, r.kind = k := by cases k <;> decide
  obtain ⟨r, hr, rfl⟩ := hk
  exact ⟨r, hr, (spells_iff hr).2 hrow, (operationOf_kind _ _).symm⟩

/-! ## The statements -/

/-- Settles O1: the decoder reads back the fields the operation is spelled with. -/
theorem decodeOfEncode : Obligations.DecodeOfEncode := fun _ h => decode_encode h

/-- Settles O2: the operation read from a word's fields is spelled with those fields, and they are the word. -/
theorem encodeOfDecode : Obligations.EncodeOfDecode := by
  intro w i h
  obtain ⟨k, hrow, rfl⟩ := decode_eq_ok.1 h
  exact ⟨operationOf_wellFormed _ k, by rw [encode, fieldsOf_operationOf hrow, wordOf_fields]⟩

/-- Settles O3: a row's mask and match say what the decoder tests, field by field. -/
theorem decodeFollowsOpcodeTable : Obligations.DecodeFollowsOpcodeTable := by
  refine ⟨fun w r hr hw => ⟨_, OpRow.decode_of_spells hr hw, operationOf_kind _ _⟩,
    fun w i h => exists_row_of_decode h, ?_, ?_, rfl⟩
  · intro w r hr r' hr' hw hw'
    obtain ⟨hopc, -⟩ := (spells_iff hr).1 hw
    obtain ⟨hopc', -⟩ := (spells_iff hr').1 hw'
    exact opRows_opcode_inj r hr r' hr' (hopc.symm.trans hopc')
  · intro w i h
    obtain ⟨k, -, rfl⟩ := decode_eq_ok.1 h
    cases k with
    | putc => simp [operationOf, fields]
    | arm | rearm1 => exact ⟨rfl, rfl⟩
    | disarm | rxtick | clk => rfl
    | init | getc | txstart | edge | txtick => trivial

/-- Settles O4: a word that meets no row spells no operation, and the step refuses a word that spells none. -/
theorem illegalWordsRefused : Obligations.IllegalWordsRefused := by
  refine ⟨fun w => decodeFields_error_iff (fields w), fun w => ?_, fun s w rest why hin hd => ?_⟩
  · rw [exists_error_iff]
    constructor
    · intro hnone r hr
      by_contra hs
      exact hnone _ (OpRow.decode_of_spells hr (by simpa using hs))
    · intro hno i hi
      obtain ⟨r, hr, hs, -⟩ := exists_row_of_decode hi
      simp [hno r hr] at hs
  · simp [Machine.step, Machine.fetch_cons s _ _ hin, hd]

/-- Settles O5: each of the fourteen words is read by the decoder. -/
theorem tableWordsDecode : Obligations.TableWordsDecode := by
  unfold Obligations.TableWordsDecode
  decide

end Sys2Proof
end

section
/-! The bit cells of a serial frame, and the byte of its samples (R80 to R83, R92). -/

namespace Sys2Proof.Machine

/-- The start bit is low (R80, R81). -/
theorem frameCell_start (b : Byte) : frameCell b 0 = false := by
  simp only [frameCell, frameWord, BitVec.getLsbD_append]
  simp

/-- After the start bit come the eight data bits, the least significant first, and the stop bit (R80, R81). -/
theorem frameCell_succ (b : Byte) (k : Nat) :
    frameCell b (k + 1) = if k < 8 then b.getLsbD k else decide (k = 8) := by
  simp only [frameCell, frameWord, BitVec.getLsbD_append]
  by_cases hk : k < 8
  · simp [hk]
  · have hk8 : k - 8 = 0 ↔ k = 8 := by omega
    simp [hk, hk8]

/-- Cell `i + 1` is data bit `i` (R81). -/
theorem frameCell_data (b : Byte) (i : Fin 8) : frameCell b (i.val + 1) = b.getLsbD i.val := by
  simp [frameCell_succ]

/-- The stop bit is high (R80, R81). -/
theorem frameCell_stop (b : Byte) : frameCell b 9 = true := frameCell_succ b 8

/-- The 10-bit word of a frame is the byte shifted past the start bit, with the stop bit set (R81). -/
theorem frameWord_eq (b : Byte) : frameWord b = 0x200#10 ||| (b.setWidth 10 <<< 1) := by
  apply BitVec.eq_of_getLsbD_eq
  intro k hk
  have h200 : 0x200#10 = BitVec.twoPow 10 9 := rfl
  change frameCell b k = _
  rw [h200]
  obtain _ | k := k
  · simp [frameCell_start]
  · by_cases hk' : k < 8
    · simp [frameCell_succ, hk', hk, hk'.ne]
    · obtain rfl : k = 8 := by omega
      simp [frameCell_stop]

/-- Settles O7: cell by cell from the word `1 :: b :: 0`. -/
theorem frameCellsOfByte : Obligations.FrameCellsOfByte := fun b =>
  ⟨frameWord_eq b, frameCell_start b, frameCell_data b, frameCell_stop b, by simp [frameCells]⟩

/-- Bit `i` of the byte of samples is sample `i + 2` (R92). -/
theorem byteOfSamples_bit (s : Nat → Level) (i : Fin 8) :
    (byteOfSamples s).getLsbD i.val = s (i.val + 2) := by
  simp only [byteOfSamples, BitVec.getLsbD_append, BitVec.getLsbD_ofBool]
  fin_cases i <;> rfl

/-- The samples of a frame's own cells are its byte (R81, R92). -/
theorem byteOfSamples_frame (b : Byte) : byteOfSamples (fun k => frameCell b (k - 1)) = b := by
  apply BitVec.eq_of_getLsbD_eq
  intro j hj
  exact (byteOfSamples_bit _ ⟨j, hj⟩).trans (frameCell_data b ⟨j, hj⟩)

/-- Settles O8: sample `i + 2` is bit `i`, and in a frame that is cell `i + 1`. -/
theorem frameDecoding : Obligations.FrameDecoding := by
  refine ⟨byteOfSamples_bit, fun s => ⟨?_, ?_, ?_⟩, fun b => ?_⟩
  · intro h1
    simp [decodeFrame, h1]
  · intro h1 h10
    simp [decodeFrame, h1, h10]
  · intro h1 h10
    simp [decodeFrame, h1, h10]
  · simp [decodeFrame, frameCell_start, frameCell_stop, byteOfSamples_frame]

end Sys2Proof.Machine
end

section
/-! The transmitter between two cells of a frame: what a firing and a `PUTC` do to the frame being sent (R82, R83,
R140 to R146, R162). -/

namespace Sys2Proof.Machine

variable {s t : State} {b b' : Byte} {queued : Option Byte} {k n : Nat}

/-- The bit cell that is on the pin in each phase of a frame (R24, R81). -/
def TxPhase.cell : TxPhase → Option Nat
  | .idle => none
  | .sendingStart => some 0
  | .sendingBit i => some (i.val + 1)
  | .sendingStop => some 9

/-- The level of a phase is that of its cell (R24, R80). -/
theorem TxPhase.level_eq_frameCell {p : TxPhase} (h : p.cell = some k) : p.level b = frameCell b k := by
  cases p with
  | idle => cases h
  | sendingStart => cases h; exact (frameCell_start b).symm
  | sendingBit i => cases h; exact (frameCell_data b i).symm
  | sendingStop => cases h; exact (frameCell_stop b).symm

/-- A running block sends `b`, has cell `k` on the pin, and holds `queued` for the next frame. -/
structure Sending (b : Byte) (queued : Option Byte) (k : Nat) (s : State) : Prop where
  running : Running s
  cell : s.tx.phase.cell = some k
  byte : s.tx.pendingByte = b
  slot : s.mb.transmitByte = queued

theorem Sending.phase_ne_idle (h : Sending b queued k s) : s.tx.phase ≠ .idle := by
  intro hp
  simpa [hp, TxPhase.cell] using h.cell

/-- The pin carries the cell of the frame (R24, R81). -/
theorem Sending.pin (h : Sending b queued k s) : s.pin.tx = frameCell b k := by
  rw [h.running.ok.pinLevel, h.byte, TxPhase.level_eq_frameCell h.cell]

/-- A firing out of `Idle` is its handler body (R141). -/
theorem Running.exec_txtick (hr : Running s) (hp : s.tx.phase ≠ .idle) :
    exec .txtick s = txBody (fire .tx s) :=
  hr.txTickHandler_eq hp

@[simp] theorem fire_mb (c : Chan) (s : State) : (fire c s).mb = s.mb := by
  obtain ⟨v, hv⟩ := fire_frame c s
  simp [hv]

@[simp] theorem txDataBitEnd_cell (i : Fin 8) (s : State) :
    (txDataBitEnd i s).tx.phase.cell = some (i.val + 2) := by
  unfold txDataBitEnd
  split
  · rfl
  · have hi : i.val = 7 := by omega
    simp [TxPhase.cell, hi]

@[simp] theorem txDataBitEnd_pendingByte (i : Fin 8) (s : State) :
    (txDataBitEnd i s).tx.pendingByte = s.tx.pendingByte := by
  unfold txDataBitEnd
  split <;> rfl

@[simp] theorem txDataBitEnd_mb (i : Fin 8) (s : State) : (txDataBitEnd i s).mb = s.mb := by
  unfold txDataBitEnd
  split <;> rfl

/-- A firing before the stop bit puts the next cell of the frame on the pin (R142, R143, R144). -/
theorem Sending.txtick (h : Sending b queued k s) (hk : k < 9) :
    ∃ t, exec .txtick s = .next t ∧ Sending b queued (k + 1) t := by
  have hrun := h.running.exec_txtick h.phase_ne_idle
  obtain ⟨hr, hcell, hbyte, hslot⟩ := h
  cases hp : s.tx.phase with
  | idle => simp [hp, TxPhase.cell] at hcell
  | sendingStart =>
    obtain rfl : 0 = k := by simpa [hp, TxPhase.cell] using hcell
    have ht : exec .txtick s = .next (txStartBitEnd (fire .tx s)) := by simp [hrun, txBody, hp]
    exact ⟨_, ht, hr.after_exec ht, rfl, by simpa [txStartBitEnd], by simpa [txStartBitEnd]⟩
  | sendingBit i =>
    obtain rfl : i.val + 1 = k := by simpa [hp, TxPhase.cell] using hcell
    have ht : exec .txtick s = .next (txDataBitEnd i (fire .tx s)) := by simp [hrun, txBody, hp]
    exact ⟨_, ht, hr.after_exec ht, by simp, by simpa, by simpa⟩
  | sendingStop =>
    obtain rfl : 9 = k := by simpa [hp, TxPhase.cell] using hcell
    exact absurd hk (lt_irrefl 9)

/-- In cell 9 the driver sends the stop bit. -/
theorem Sending.phase_stop (h : Sending b queued 9 s) : s.tx.phase = .sendingStop := by
  have hcell := h.cell
  cases hp : s.tx.phase with
  | idle | sendingStart => simp [hp, TxPhase.cell] at hcell
  | sendingBit i =>
    have hi : i.val + 1 = 9 := by simpa [hp, TxPhase.cell] using hcell
    exact absurd hi (by omega)
  | sendingStop => rfl

/-- The firing that ends the stop bit wakes the driver with the channel stopped (R146). -/
theorem Sending.exec_txtick_stop (h : Sending b queued 9 s) : exec .txtick s = txStart
    (setTx { phase := .idle, pendingByte := 0, bitsSent := 0 } (disarm .tx (fire .tx s))) := by
  rw [h.running.exec_txtick h.phase_ne_idle]
  simp [txBody, h.phase_stop, txStopBitEnd]

/-- A queued byte starts its frame in the firing that ends the frame before it (R146). -/
theorem Sending.txtick_queued (h : Sending b (some b') 9 s) :
    ∃ t, exec .txtick s = .next t ∧ Sending b' none 0 t := by
  have hbusy : s.mb.transmitBusy = true := by rw [h.running.ok.busyIff, h.slot]; rfl
  have ht := h.exec_txtick_stop
  rw [txStart_acts rfl (by simpa [disarm]) (by simpa [disarm] using h.slot) rfl] at ht
  exact ⟨_, ht, h.running.after_exec ht, rfl, rfl, rfl⟩

/-- With nothing queued the line is idle after the stop bit (R146). -/
theorem Sending.txtick_last (h : Sending b none 9 s) :
    ∃ t, exec .txtick s = .next t ∧ Running t ∧ t.tx.phase = .idle := by
  have hbusy : s.mb.transmitBusy = false := by rw [h.running.ok.busyIff, h.slot]; rfl
  have ht := h.exec_txtick_stop
  rw [txStart_idle (by simp [disarm, hbusy])] at ht
  exact ⟨_, ht, h.running.after_exec ht, rfl⟩

/-- A `PUTC` that finds the slot free stores its byte, wakes the driver and answers `true` (R162, R163). -/
theorem execPutc_free (hi : s.ctl.initialised = true) (hb : s.mb.transmitBusy = false)
    (hw : txStart (setTransmitBusy true (memWrite .transmit (some b) s)) = .next t) :
    execPutc b s = .next (emit (.putc true) t) := by
  simp [execPutc, hi, hb, hw]

/-- A byte put at rest is on the wire at once (R162, R163). -/
theorem Running.putc_idle (hr : Running s) (hp : s.tx.phase = .idle) (b : Byte) :
    ∃ t, exec (.putc b) s = .next t ∧ Sending b none 0 t := by
  obtain ⟨-, hbusy, -⟩ := hr.ok.txIdle hp
  have harmed : s.tm.tx.armed = false := by simp [hr.ok.txArmed, hp]
  have ht : exec (.putc b) s = _ :=
    execPutc_free hr.initialised hbusy (txStart_acts (by simpa) rfl rfl (by simpa))
  exact ⟨_, ht, hr.after_exec ht, rfl, rfl, rfl⟩

/-- A byte put during a frame waits for its end (R162). -/
theorem Sending.putc (h : Sending b none k s) (b' : Byte) :
    ∃ t, exec (.putc b') s = .next t ∧ Sending b (some b') k t := by
  have hbusy : s.mb.transmitBusy = false := by rw [h.running.ok.busyIff, h.slot]; rfl
  have ht : exec (.putc b') s = _ :=
    execPutc_free h.running.initialised hbusy (txStart_idle (by simp [h.phase_ne_idle]))
  exact ⟨_, ht, h.running.after_exec ht, h.cell, h.byte, rfl⟩

/-! ## Sequences of firings -/

theorem runOps_append (xs ys : List Instr) (s : State) :
    runOps (xs ++ ys) s = andThen (runOps xs s) (runOps ys) := by
  induction xs generalizing s with
  | nil => rfl
  | cons i xs ih =>
    simp only [List.cons_append, runOps_cons]
    cases exec i s with
    | next u => exact ih u
    | fault f => rfl
    | refused e => rfl

/-- An operation that completed is followed by the rest of its sequence. -/
theorem runOps_cons_of_next {i : Instr} {rest : List Instr} (h : exec i s = .next t) :
    runOps (i :: rest) s = runOps rest t := by
  rw [runOps_cons, h, andThen_next]

theorem txRun_succ (n : Nat) : txRun (n + 1) = .txtick :: txRun n := rfl

theorem txRun_add (m n : Nat) : txRun (m + n) = txRun m ++ txRun n :=
  List.replicate_append_replicate.symm

/-- `n` firings within a frame put the `n`th cell after the present one on the pin (R141 to R144). -/
theorem Sending.run (h : Sending b queued k s) (hn : k + n ≤ 9) :
    ∃ t, runOps (txRun n) s = .next t ∧ Sending b queued (k + n) t := by
  induction n generalizing k s with
  | zero => exact ⟨s, rfl, h⟩
  | succ n ih =>
    obtain ⟨u, hu, h⟩ := h.txtick (by omega)
    rw [txRun_succ, runOps_cons_of_next hu, Nat.add_comm n, ← Nat.add_assoc]
    exact ih h (by omega)

/-- From its start bit a frame has nine more firings to its stop bit, and the tenth ends it (R141, R146). -/
theorem Sending.run_whole (h : Sending b queued 0 s) :
    ∃ t, Sending b queued 9 t ∧
      ∀ n, runOps (txRun (10 + n)) s = andThen (exec .txtick t) (runOps (txRun n)) := by
  obtain ⟨t, ht, hstop⟩ := h.run (n := 9) (by decide)
  refine ⟨t, by simpa using hstop, fun n => ?_⟩
  have hsplit : txRun (10 + n) = txRun 9 ++ .txtick :: txRun n := by
    rw [← txRun_succ, ← txRun_add, ← Nat.add_assoc, Nat.add_right_comm]
  rw [hsplit, runOps_append, ht, andThen_next, runOps_cons]

/-- Settles O37: the firing that ends the first frame starts the second. -/
theorem backToBackFrames : Obligations.BackToBackFrames := by
  intro s b b' hr hidle
  obtain ⟨u, hu, hfirst⟩ := hr.putc_idle hidle b
  obtain ⟨v, hv, hfirst⟩ := hfirst.putc b'
  obtain ⟨x, hstop, hrun⟩ := hfirst.run_whole
  obtain ⟨y, hy, hsecond⟩ := hstop.txtick_queued
  have hputs (ops : List Instr) : runOps (.putc b :: .putc b' :: ops) s = runOps ops v := by
    rw [runOps_cons_of_next hu, runOps_cons_of_next hv]
  have hframe (n : Nat) : runOps (txRun (10 + n)) v = runOps (txRun n) y := by
    rw [hrun, hy, andThen_next]
  simp only [hputs]
  refine ⟨fun k hk => ?_, fun k hk => ?_, ?_⟩
  · obtain ⟨t, ht, hcell⟩ := hfirst.run (n := k) (by omega)
    exact ⟨t, ht, by simpa using hcell.pin⟩
  · obtain ⟨t, ht, hcell⟩ := hsecond.run (n := k) (by omega)
    exact ⟨t, by rw [hframe, ht], by simpa using hcell.pin⟩
  · obtain ⟨z, hlast, hrun'⟩ := hsecond.run_whole
    obtain ⟨t, ht, htr, htidle⟩ := hlast.txtick_last
    obtain ⟨hpin, hbusy, -⟩ := htr.ok.txIdle htidle
    refine ⟨t, ?_, hpin, htidle, hbusy, by simp [htr.ok.txArmed, htidle]⟩
    calc runOps (txRun 20) v
        = runOps (txRun 10) y := hframe 10
      _ = runOps (txRun 0) t := by rw [hrun' 0, ht, andThen_next]

end Sys2Proof.Machine
end

section
/-! The timer operations performed inside another operation, and their refusals (R101, R103 to R106). -/

namespace Sys2Proof.Machine

variable {s t : State} {c : Chan} {p : Nat} {l : Level}

/-! ## Where a sub-operation stands (R105) -/

theorem exec_arm_inside (h : s.nesting = .inside) : exec (.arm c p) s = arm c p s :=
  onlyInside_inside s _ h

theorem exec_disarm_inside (h : s.nesting = .inside) : exec (.disarm c) s = .next (disarm c s) :=
  onlyInside_inside s (fun s => .next (disarm c s)) h

theorem exec_rearm1_inside (h : s.nesting = .inside) : exec (.rearm1 c p) s = rearm1 c p s :=
  onlyInside_inside s _ h

/-- Settles O22: each of the four is its body behind the test of where it stands. -/
theorem subOperationsRefusedAtTopLevel : Obligations.SubOperationsRefusedAtTopLevel := by
  intro s i hn hi
  have hrefused (body : State → Result) : onlyInside body s = .refused .internalOnly :=
    onlyInside_topLevel s body hn
  cases i with
  | arm c p => exact hrefused _
  | disarm c => exact hrefused fun s => .next (disarm c s)
  | rearm1 c d => exact hrefused _
  | txstart => exact hrefused _
  | _ => cases hi

/-! ## Intervals that do not fit (R104) -/

theorem intervalOk_eq_false_iff {n : Nat} : intervalOk n = false ↔ n = 0 ∨ 2 ^ 16 ≤ n := by
  rw [← Bool.not_eq_true, intervalOk_iff]
  omega

theorem arm_eq_badInterval_iff : arm c p s = .refused .badInterval ↔ intervalOk p = false := by
  refine ⟨fun h => ?_, arm_bad⟩
  by_contra hp
  rw [Bool.not_eq_false] at hp
  cases ha : (s.chan c).armed with
  | true => cases (arm_armed hp ha).symm.trans h
  | false => cases (arm_disarmed hp ha).symm.trans h

theorem rearm1_eq_badInterval_iff : rearm1 c p s = .refused .badInterval ↔ intervalOk p = false := by
  refine ⟨fun h => ?_, rearm1_bad⟩
  by_contra hp
  cases (rearm1_ok (by simpa using hp)).symm.trans h

/-- Settles O21: both test the interval alone, and the block's own intervals pass the test. -/
theorem badIntervalsRefused : Obligations.BadIntervalsRefused := by
  refine ⟨fun s c n hn => ?_, fun g => ?_, fun s i hi => exec_ne_badInterval hi s⟩
  · rw [exec_arm_inside hn, exec_rearm1_inside hn, arm_eq_badInterval_iff, rearm1_eq_badInterval_iff,
      intervalOk_eq_false_iff]
    exact ⟨.rfl, .rfl⟩
  · obtain ⟨hlo, hhi⟩ := bitPeriod_bounds g
    obtain ⟨hhalf, -, hhalf'⟩ := halfBit_bounds g
    exact ⟨by omega, hhi, hhalf, hhalf'⟩

/-! ## Starting a channel (R101, R103) -/

/-- Settles O17: the interval is tested first, then the armed bit. -/
theorem armStartsDisarmedChannel : Obligations.ArmStartsDisarmedChannel := by
  intro s c p hn
  rw [exec_arm_inside hn]
  refine ⟨fun hp => ?_, fun h1 h2 ha => ?_, fun h1 h2 ha => ?_, (Laws.OpcodeField.arm c p).1⟩
  · exact arm_bad (intervalOk_eq_false_iff.2 (by omega))
  · exact arm_disarmed (intervalOk_iff.2 ⟨h1, h2⟩) ha
  · exact arm_armed (intervalOk_iff.2 ⟨h1, h2⟩) ha

/-- A one-shot channel is disarmed after its firing (R106). -/
theorem fire_oneShot_disarms (h : (s.chan c).oneShot = true) : ((fire c s).chan c).armed = false := by
  rw [fire_oneShot h, chan_setChan_same]

/-- Settles O19: `REARM1` tests the interval alone, and leaves its channel in one-shot mode. -/
theorem rearm1SchedulesOneFiring : Obligations.Rearm1SchedulesOneFiring := by
  intro s c d hn
  rw [exec_rearm1_inside hn]
  refine ⟨fun hd => ?_, fun h1 h2 => ?_, fun t ht => ?_, (Laws.OpcodeField.rearm1 c d).1⟩
  · exact rearm1_bad (intervalOk_eq_false_iff.2 (by omega))
  · exact rearm1_ok (intervalOk_iff.2 ⟨h1, h2⟩)
  · obtain ⟨-, rfl⟩ := rearm1_cases ht
    exact fire_oneShot_disarms (by simp)

/-! ## The firing of a channel (R106) -/

theorem rxTickHandler_disarmed (hi : s.ctl.initialised = true) (ha : s.tm.rx.armed = false) :
    rxTickHandler l s = .refused .spuriousTick := by
  simp [rxTickHandler, hi, ha]

theorem txTickHandler_disarmed (hi : s.ctl.initialised = true) (ha : s.tm.tx.armed = false) :
    txTickHandler s = .refused .spuriousTick := by
  simp [txTickHandler, hi, ha]

/-- Settles O23: `Fire` chooses by the mode of the channel, and a firing needs an armed one. -/
theorem firingStep : Obligations.FiringStep :=
  ⟨fun _ _ ho => fire_oneShot ho, fun _ _ ho => fire_periodic ho,
    fun _ _ hi ha => rxTickHandler_disarmed hi ha, fun _ hi ha => txTickHandler_disarmed hi ha⟩

end Sys2Proof.Machine
end

section
/-! A stopped channel has no firing, and what starts it again (R102). -/

namespace Sys2Proof.Machine

variable {s t : State} {c d : Chan} {l : Level} {i : Instr}

/-- A channel is read from the timer alone (R30). -/
theorem chan_eq_of_tm_eq (h : t.tm = s.tm) (c : Chan) : t.chan c = s.chan c := by
  cases c <;> simp [h]

/-- The receive channel is the receive side's own (R29, R30). -/
theorem SameReceiveSide.chan_eq (h : SameReceiveSide s t) : t.chan .rx = s.chan .rx := by
  obtain ⟨-, -, htm, -, -, -⟩ := h
  exact htm

/-- The transmit channel is the transmit side's own (R29, R30). -/
theorem SameTransmitSide.chan_eq (h : SameTransmitSide s t) : t.chan .tx = s.chan .tx := by
  obtain ⟨-, -, htm, -, -⟩ := h
  exact htm

/-- A `DISARM` of a channel stopped with count and mode 0 writes what is there (R102). -/
theorem disarm_stopped (h : s.chan c =
      { armed := false, oneShot := false, count := 0, period := (s.chan c).period }) :
    disarm c s = s := by
  rw [disarm, ← h, setChan_chan]

/-! ## A tick with a stopped channel (R180) -/

theorem clockChan_rx_transmitSide (ht : clockChan .rx (rxTickHandler l) s = .next t) :
    SameTransmitSide s t := by
  obtain ⟨-, rfl⟩ | ⟨-, -, rfl⟩ | ⟨-, -, ht⟩ := clockChan_cases ht
  · exact .refl _
  · exact setChan_rx_transmitSide _ _
  · rw [rxTickHandler_countDown] at ht
    exact rxTickHandler_transmitSide ht

theorem clockEdge_transmitSide (ht : clockEdge l s = .next t) : SameTransmitSide s t := by
  obtain ⟨u, rfl, ⟨-, hu⟩ | ⟨-, rfl⟩⟩ := clockEdge_cases ht
  · exact (edgeHandler_transmitSide hu).trans (by simp [SameTransmitSide])
  · simp [SameTransmitSide]

/-- The edge step of `CLK` does not reach the mailbox (R120, R182). -/
theorem clockEdge_mb (ht : clockEdge l s = .next t) : t.mb = s.mb := by
  obtain ⟨u, rfl, ⟨-, hu⟩ | ⟨-, rfl⟩⟩ := clockEdge_cases ht
  · simpa using edgeHandler_mb hu
  · simp

/-- Without a falling edge the edge step of `CLK` only remembers the level (R182). -/
theorem clockEdge_quiet (hf : fallingEdge l s = false) (ht : clockEdge l s = .next t) :
    t = setRxPrev l s := by
  obtain ⟨u, rfl, ⟨hf', -⟩ | ⟨-, rfl⟩⟩ := clockEdge_cases ht
  · simp [hf] at hf'
  · rfl

/-- A tick with the transmit channel stopped leaves the transmit side (R102, R180). -/
theorem execClk_tx_stopped (ha : s.tm.tx.armed = false) (ht : execClk l s = .next t) :
    SameTransmitSide s t := by
  cases hi : s.ctl.initialised with
  | false =>
    cases (execClk_before_init hi).symm.trans ht
    exact .refl s
  | true =>
    obtain ⟨u, v, hu, hv, ht⟩ := execClk_cases hi ht
    cases (clockChan_disarmed (c := .tx) ha).symm.trans hu
    exact (clockChan_rx_transmitSide hv).trans (clockEdge_transmitSide ht)

/-- A tick with the receive channel stopped is, for the receive side, its edge step (R102, R180). -/
theorem execClk_rx_stopped (ha : s.tm.rx.armed = false) (ht : execClk l s = .next t) :
    t = s ∨ ∃ u, SameReceiveSide s u ∧ clockEdge l u = .next t := by
  cases hi : s.ctl.initialised with
  | false =>
    cases (execClk_before_init hi).symm.trans ht
    exact .inl rfl
  | true =>
    obtain ⟨u, v, hu, hv, ht⟩ := execClk_cases hi ht
    have hsu := clockChan_tx_receiveSide hu
    have hau : (u.chan .rx).armed = false := by rw [hsu.chan_eq]; exact ha
    cases (clockChan_disarmed hau).symm.trans hv
    exact .inr ⟨u, hsu, ht⟩

/-- Such a tick deposits nothing and raises nothing (R127). -/
theorem execClk_rx_stopped_slot (ha : s.tm.rx.armed = false) (ht : execClk l s = .next t) :
    t.mb.receivedByte = s.mb.receivedByte ∧ t.mb.receivedReady = s.mb.receivedReady ∧
      t.err = s.err := by
  obtain rfl | ⟨u, hsu, ht⟩ := execClk_rx_stopped ha ht
  · exact ⟨rfl, rfl, rfl⟩
  · obtain ⟨hbyte, hready⟩ := hsu.slot_eq
    rw [clockEdge_mb ht, clockEdge_err ht]
    exact ⟨hbyte, hready, hsu.err_eq⟩

/-- Without a falling edge it leaves the receiver and its channel (R182). -/
theorem execClk_rx_stopped_quiet (ha : s.tm.rx.armed = false)
    (hq : ¬(s.pin.rxPrev = true ∧ l = false)) (ht : execClk l s = .next t) :
    t.rx = s.rx ∧ t.tm.rx = s.tm.rx := by
  obtain rfl | ⟨u, ⟨hrx, hprev, htm, -, -, -⟩, ht⟩ := execClk_rx_stopped ha ht
  · exact ⟨rfl, rfl⟩
  · have hf : fallingEdge l u = false := by simpa [fallingEdge, hprev] using hq
    rw [clockEdge_quiet hf ht]
    exact ⟨hrx, htm⟩

/-! ## What starts a stopped channel -/

/-- The operations that can start channel `c`: its own `ARM` and `REARM1`, and those that perform one of them
inside (R102, R120, R140, R163, R180). -/
def Starts (s : State) (c : Chan) (i : Instr) : Prop :=
  (∃ n, i = .arm c n ∨ i = .rearm1 c n) ∨
  (c = .tx ∧ (i = .txstart ∨ ∃ b, i = .putc b)) ∨
  (c = .rx ∧ (i = .edge ∨ (i = .clk false ∧ s.pin.rxPrev = true)))

/-- A timer operation starts no channel but its own, and `DISARM` none (R101 to R103). -/
theorem exec_timer_stopped (hi : i = .disarm d ∨ (∃ p, i = .arm d p) ∨ ∃ n, i = .rearm1 d n)
    (h0 : (s.chan c).armed = false) (ht : exec i s = .next t) :
    Starts s c i ∨ (t.chan c).armed = false := by
  by_cases hc : c = d
  · subst hc
    obtain rfl | ⟨p, rfl⟩ | ⟨n, rfl⟩ := hi
    · obtain ⟨-, rfl⟩ := execDisarm_cases ht
      exact .inr (by simp [disarm])
    · exact .inl (.inl ⟨p, .inl rfl⟩)
    · exact .inl (.inl ⟨n, .inr rfl⟩)
  · obtain ⟨hother, -⟩ := timerOperationsFrame i s t d hi ht
    exact .inr (by rw [hother c hc, h0])

/-- A tick starts the receive channel only at a falling edge, and the transmit channel never (R102, R180). -/
theorem execClk_stopped (h0 : (s.chan c).armed = false) (ht : execClk l s = .next t) :
    Starts s c (.clk l) ∨ (t.chan c).armed = false := by
  cases c with
  | tx => exact .inr (by rw [(execClk_tx_stopped h0 ht).chan_eq, h0])
  | rx =>
    by_cases hf : s.pin.rxPrev = true ∧ l = false
    · obtain ⟨hprev, rfl⟩ := hf
      exact .inl (.inr (.inr ⟨rfl, .inr ⟨rfl, hprev⟩⟩))
    · obtain ⟨-, htm⟩ := execClk_rx_stopped_quiet h0 hf ht
      exact .inr (by rw [chan_rx, htm]; exact h0)

/-- A firing of a channel needs it armed, and leaves the other channel (R106, R121, R141). -/
theorem rxTickHandler_stopped (h0 : (s.chan c).armed = false) (ht : rxTickHandler l s = .next t) :
    (t.chan c).armed = false := by
  cases c with
  | rx =>
    obtain ⟨-, ha, -⟩ := rxTickHandler_cases ht
    cases h0.symm.trans ha
  | tx => rw [(rxTickHandler_transmitSide ht).chan_eq, h0]

theorem txTickHandler_stopped (h0 : (s.chan c).armed = false) (ht : txTickHandler s = .next t) :
    (t.chan c).armed = false := by
  cases c with
  | rx => rw [(txTickHandler_receiveSide ht).chan_eq, h0]
  | tx =>
    obtain ⟨-, ha, -⟩ := txTickHandler_cases ht
    cases h0.symm.trans ha

/-- A stopped channel stays stopped in every operation but those that can start it (R102). -/
theorem exec_stopped (h0 : (s.chan c).armed = false) (ht : exec i s = .next t) :
    Starts s c i ∨ (t.chan c).armed = false := by
  cases i with
  | init =>
    obtain ⟨-, rfl⟩ := execInit_cases ht
    exact .inr (by cases c <;> rfl)
  | getc =>
    obtain ⟨-, -, htm, -, -⟩ := execGetc_frame ht
    exact .inr (by rw [chan_eq_of_tm_eq htm, h0])
  | putc b =>
    cases c with
    | rx => exact .inr (by rw [(execPutc_receiveSide ht).chan_eq, h0])
    | tx => exact .inl (.inr (.inl ⟨rfl, .inr ⟨b, rfl⟩⟩))
  | arm d p => exact exec_timer_stopped (.inr (.inl ⟨p, rfl⟩)) h0 ht
  | disarm d => exact exec_timer_stopped (.inl rfl) h0 ht
  | rearm1 d n => exact exec_timer_stopped (.inr (.inr ⟨n, rfl⟩)) h0 ht
  | txstart =>
    cases c with
    | rx => exact .inr (by rw [(txStart_receiveSide (onlyInside_eq_next.1 ht).2).chan_eq, h0])
    | tx => exact .inl (.inr (.inl ⟨rfl, .inl rfl⟩))
  | edge =>
    cases c with
    | rx => exact .inl (.inr (.inr ⟨rfl, .inl rfl⟩))
    | tx => exact .inr (by rw [(edgeHandler_transmitSide ht).chan_eq, h0])
  | rxtick l => exact .inr (rxTickHandler_stopped h0 ht)
  | txtick => exact .inr (txTickHandler_stopped h0 ht)
  | clk l => exact execClk_stopped h0 ht

/-- Settles O18: a firing needs its channel armed, a tick passes a stopped channel over, and only the operations
of `Starts` arm one. -/
theorem disarmStopsChannel : Obligations.DisarmStopsChannel := by
  refine ⟨fun s c hn => ?_, fun s t c ht => ?_, fun s l hi ha => rxTickHandler_disarmed hi ha,
    fun s hi ha => txTickHandler_disarmed hi ha, fun s t l ht => ?_, fun i s t c ht h0 h1 => ?_,
    fun c => (Laws.OpcodeField.disarm c).1⟩
  · rw [exec_disarm_inside hn]
    exact ⟨rfl, fun hz => by rw [disarm_stopped hz]⟩
  · obtain ⟨-, rfl⟩ := execDisarm_cases ht
    simp [disarm]
  · refine ⟨fun ha => execClk_tx_stopped ha ht, fun ha => ?_⟩
    obtain ⟨hbyte, hready, herr⟩ := execClk_rx_stopped_slot ha ht
    exact ⟨hbyte, hready, herr, fun hq => execClk_rx_stopped_quiet ha hq ht⟩
  · obtain hstarts | hstopped := exec_stopped h0 ht
    · exact hstarts
    · cases hstopped.symm.trans h1

end Sys2Proof.Machine
end

section
/-! The receiver: what an edge starts and what each of the ten firings after it does in a running block, from the
start bit to the end of the frame (R120 to R128). -/

namespace Sys2Proof.Machine

variable {s : State} {i : Fin 8} {l : Level}

/-! ## The edge (R120) -/

theorem edgeEnable_eq_true_iff : edgeEnable s = true ↔
    s.ctl.initialised = true ∧ s.ctl.gie = true ∧ s.rx.phase = .idle := by
  simp [edgeEnable, and_assoc]

/-- Settles O24: the edge interrupt tests `edgeEnable` and nothing else. -/
theorem edgeStartsReception : Obligations.EdgeStartsReception := by
  refine ⟨fun s hi hg hp => ?_, fun s hoff => ?_, decode_encode (i := .edge) rfl⟩
  · exact edgeHandler_enabled (edgeEnable_eq_true_iff.2 ⟨hi, hg, hp⟩)
  · refine edgeHandler_disabled (Bool.eq_false_iff.2 fun hon => ?_)
    obtain ⟨hi, hg, hp⟩ := edgeEnable_eq_true_iff.1 hon
    simp [hi, hg, hp] at hoff

/-! ## The start bit (R122) -/

/-- A firing out of `Idle` is its handler body (R121). -/
theorem Running.exec_rxtick (hr : Running s) (hp : s.rx.phase ≠ .idle) :
    exec (.rxtick l) s = rxBody l (fire .rx s) :=
  hr.rxTickHandler_eq hp

/-- Before the first data bit the receive FrameState is determined by its phase (R37 I3, I10). -/
theorem Running.rx_quiet {p : RxPhase} (hr : Running s) (hp : s.rx.phase = p)
    (hq : p = .idle ∨ p = .startDetected) :
    s.rx = { phase := p, shiftRegister := 0, bitsReceived := 0 } := by
  have hzero := hr.ok.rxQuiet (by rwa [hp])
  have hbits : s.rx.bitsReceived = 0 := by
    rw [hr.ok.bitsReceived, hp]
    obtain rfl | rfl := hq <;> rfl
  rw [← hp, ← hzero, ← hbits]

/-- Settles O25: the one shot of the edge has stopped the channel, and a low sample starts it anew. -/
theorem startBitValidated : Obligations.StartBitValidated := by
  intro s hr hp
  have hrx := hr.rx_quiet hp (.inr rfl)
  have hne : s.rx.phase ≠ .idle := by simp [hp]
  rw [hr.exec_rxtick hne, hr.exec_rxtick hne, hr.fire_rx_oneShot hp, hrx]
  simp only [rxBody, rxStartBody]
  refine ⟨rfl, ?_⟩
  exact arm_disarmed (intervalOk_bitPeriod _) rfl

/-! ## The data bits (R124, R125) -/

/-- A firing in `SamplingBit(i)` shifts the sample in, with the channel reloaded (R124). -/
theorem Running.exec_rxtick_data (hr : Running s) (hp : s.rx.phase = .samplingBit i) (l : Level) :
    exec (.rxtick l) s = .next (rxDataBody i l { s with tm := { s.tm with rx :=
      { armed := true, oneShot := false, count := ticksOf s.cfg.bitPeriod,
        period := ticksOf s.cfg.bitPeriod } } }) := by
  have hne : s.rx.phase ≠ .idle := by simp [hp]
  rw [hr.exec_rxtick hne, hr.fire_rx_periodic hne (by simp [hp])]
  simp [rxBody, hp]

/-- The sample enters at bit 7 of the accumulator shifted right (R124). -/
theorem shiftIn_eq_or (l : Level) (b : Byte) :
    shiftIn l b = (if l then 0x80#8 else 0x00#8) ||| (b >>> 1) := by
  have h80 : 0x80#8 = BitVec.twoPow 8 7 := rfl
  rw [h80]
  apply BitVec.eq_of_getLsbD_eq
  intro j hj
  rw [shiftIn_bit]
  by_cases h7 : j = 7
  · cases l <;> simp [h7]
  · have hlt : j < 7 := by omega
    cases l <;> simp [h7, hlt, Nat.add_comm, Ne.symm h7]

/-- Settles O26: the handler body of `SamplingBit(i)`, its shift written with masks. -/
theorem dataBitSampled : Obligations.DataBitSampled := by
  intro s l i hr hp
  rw [hr.exec_rxtick_data hp, rxDataBody, shiftIn_eq_or]
  rfl

/-- The accumulator after `j` samples from `0x00` (R125). -/
def accumulator (smp : Nat → Level) (j : Nat) : Byte :=
  (List.range j).foldl (fun a k => shiftIn (smp k) a) 0

@[simp] theorem accumulator_zero (smp : Nat → Level) : accumulator smp 0 = 0 := rfl

theorem accumulator_succ (smp : Nat → Level) (j : Nat) :
    accumulator smp (j + 1) = shiftIn (smp j) (accumulator smp j) := by
  simp [accumulator, List.range_succ]

/-- A sample counts 2^7, and the bits before it half of what they did (R124). -/
theorem shiftIn_toNat (l : Level) (b : Byte) :
    (shiftIn l b).toNat = b.toNat / 2 + if l then 2 ^ 7 else 0 := by
  have hb : b.toNat / 2 < 2 ^ 7 := by omega
  have hlow : (b.extractLsb' 1 7).toNat = b.toNat / 2 := by
    rw [BitVec.extractLsb'_toNat, Nat.shiftRight_eq_div_pow, pow_one, Nat.mod_eq_of_lt hb]
  rw [shiftIn, BitVec.toNat_cons', hlow, Nat.shiftLeft_eq]
  cases l <;> simp [Nat.add_comm]

/-- Settles O27: each sample counts half as much after the next one as before it, and never loses its last bit. -/
theorem accumulatorAfterSamples : Obligations.AccumulatorAfterSamples := by
  intro smp j hj
  change (accumulator smp j).toNat = _
  induction j with
  | zero => rfl
  | succ j ih =>
    have hhalf (k : Nat) : (if smp k then 2 ^ (8 - j + k) else 0) =
        2 * if smp k then 2 ^ (8 - (j + 1) + k) else 0 := by
      have hexp : 8 - j + k = 8 - (j + 1) + k + 1 := by omega
      rw [hexp, pow_succ']
      split <;> simp
    have hlast : 8 - (j + 1) + j = 7 := by omega
    rw [accumulator_succ, shiftIn_toNat, ih (by omega)]
    simp only [hhalf, List.sum_map_mul_left, List.range_succ, List.map_append, List.sum_append,
      List.map_singleton, List.sum_singleton, hlast]
    rw [Nat.mul_div_cancel_left _ two_pos]

/-! ## The end of a frame (R126, R127) -/

/-- Settles O29: the flag chooses first, then the policy. -/
theorem depositByPolicy : Obligations.DepositByPolicy :=
  fun _ _ => ⟨fun h => deposit_empty h, fun h hp => deposit_dropNew h hp,
    fun h hp => deposit_overwrite h hp⟩

/-- The state after a frame, before its byte is handed on: receiver cleared, channel stopped (R126). -/
def frameEnded (s : State) : State :=
  setRx { phase := .idle, shiftRegister := 0, bitsReceived := 0 } (disarm .rx s)

/-- A framing error recorded (R126, R202). -/
def framingRecorded (s : State) : State := setFraming (signal .framingError s)

/-- A channel stopped after its firing is as one stopped before it (R102, R106). -/
theorem disarm_fire (c : Chan) (s : State) : disarm c (fire c s) = disarm c s := by
  cases h : (s.chan c).oneShot with
  | true => rw [fire_oneShot h]; cases c <;> rfl
  | false => rw [fire_periodic h]; cases c <;> rfl

/-- A deposit neither reads nor writes the receive FrameState (R127). -/
theorem deposit_setRx (b : Byte) (v : RxState) (s : State) :
    deposit b (setRx v s) = setRx v (deposit b s) := by
  cases h : s.mb.receivedReady with
  | false => rw [deposit_empty h, deposit_empty (by exact h)]; rfl
  | true =>
    cases hp : s.cfg.overrun with
    | dropNew => rw [deposit_dropNew h hp, deposit_dropNew (by exact h) (by exact hp)]; rfl
    | overwrite => rw [deposit_overwrite h hp, deposit_overwrite (by exact h) (by exact hp)]; rfl

/-- A firing in `StopExpected` is the end of the frame, whatever the sample (R126). -/
theorem Running.exec_rxtick_stop (hr : Running s) (hp : s.rx.phase = .stopExpected) (l : Level) :
    exec (.rxtick l) s = .next (rxStopBody l s) := by
  rw [hr.exec_rxtick (by simp [hp])]
  simp [rxBody, hp, rxStopBody, disarm_fire]

/-- A high stop bit deposits the byte (R126). -/
theorem rxStopBody_high (s : State) :
    rxStopBody true s = deposit s.rx.shiftRegister (frameEnded s) :=
  (deposit_setRx _ _ (disarm .rx s)).symm

/-- A low stop bit under `Discard` is a framing error, and the byte is lost (R126). -/
theorem rxStopBody_low_discard (h : s.cfg.framing = .discard) :
    rxStopBody false s = framingRecorded (frameEnded s) := by
  have h : (disarm .rx s).cfg.framing = .discard := h
  simp only [rxStopBody, rxStopByte, setFraming_cfg, signal_cfg, h]
  rfl

/-- A low stop bit under `Deliver` is a framing error, and the byte is deposited (R126). -/
theorem rxStopBody_low_deliver (h : s.cfg.framing = .deliver) :
    rxStopBody false s = deposit s.rx.shiftRegister (framingRecorded (frameEnded s)) := by
  have h : (disarm .rx s).cfg.framing = .deliver := h
  simp only [rxStopBody, rxStopByte, setFraming_cfg, signal_cfg, h]
  exact (deposit_setRx _ _ (framingRecorded (disarm .rx s))).symm

/-- Settles O28: the sample and the framing policy choose what is handed on, the flag and the overrun policy what
the slot keeps. -/
theorem stopBitEndsFrame : Obligations.StopBitEndsFrame := by
  rintro s u hr hp rfl
  rw [hr.exec_rxtick_stop hp, hr.exec_rxtick_stop hp, rxStopBody_high]
  refine ⟨fun h => ?_, fun h ho => ?_, fun h ho => ?_, fun hf => ?_, fun hf h => ?_,
    fun hf h ho => ?_, fun hf h ho => ?_⟩
  · exact congrArg _ (deposit_empty h)
  · exact congrArg _ (deposit_dropNew h ho)
  · exact congrArg _ (deposit_overwrite h ho)
  · exact congrArg _ (rxStopBody_low_discard hf)
  · rw [rxStopBody_low_deliver hf]
    exact congrArg _ (deposit_empty h)
  · rw [rxStopBody_low_deliver hf]
    exact congrArg _ (deposit_dropNew h ho)
  · rw [rxStopBody_low_deliver hf]
    exact congrArg _ (deposit_overwrite h ho)

end Sys2Proof.Machine
end

section
/-! The complete transition table of the receiver's phase (R128). -/

namespace Sys2Proof.Machine

variable {s t : State} {c : Chan} {l : Level} {i : Instr}

/-- The phase that follows a firing with the pin at `l`; in `Idle` there is none (R128). -/
def RxPhase.afterFiring (l : Level) : RxPhase → RxPhase
  | .idle => .idle
  | .startDetected => if l then .idle else .samplingBit 0
  | .samplingBit i => afterSample i
  | .stopExpected => .idle

theorem rxBody_phase (ht : rxBody l s = .next t) : t.rx.phase = s.rx.phase.afterFiring l := by
  obtain ⟨hp, rfl, rfl⟩ | ⟨hp, rfl, harm⟩ | ⟨i, hp, rfl⟩ | ⟨hp, rfl⟩ := rxBody_cases ht
  · simp [hp, RxPhase.afterFiring, disarm]
  · obtain ⟨v, rfl, -⟩ := arm_writes harm
    simp [hp, RxPhase.afterFiring]
  · simp [hp, RxPhase.afterFiring, rxDataBody]
  · simp [hp, RxPhase.afterFiring, rxStopBody]

theorem rxTickHandler_phase (ht : rxTickHandler l s = .next t) :
    t.rx.phase = s.rx.phase.afterFiring l := by
  obtain ⟨-, -, hbody⟩ := rxTickHandler_cases ht
  simpa using rxBody_phase hbody

theorem edgeHandler_phase (ht : edgeHandler s = .next t) :
    t.rx.phase = if edgeEnable s then .startDetected else s.rx.phase := by
  obtain ⟨he, rfl⟩ | ⟨he, rfl⟩ := edgeHandler_cases ht <;> simp [he]

/-- The timer operations do not reach the receiver (R101 to R103). -/
theorem exec_timer_rx (hi : i = .disarm c ∨ (∃ p, i = .arm c p) ∨ ∃ d, i = .rearm1 c d)
    (ht : exec i s = .next t) : t.rx = s.rx := by
  obtain ⟨-, hrx, -⟩ := timerOperationsFrame i s t c hi ht
  exact hrx

/-- The receive FrameState is the receive side's own (R21). -/
theorem SameReceiveSide.phase_eq (h : SameReceiveSide s t) : t.rx.phase = s.rx.phase := by
  obtain ⟨hrx, -⟩ := h
  rw [hrx]

/-- Settles O30: an edge and a firing move the phase, `INIT` resets it, and the rest leaves the receiver. -/
theorem receiveTransitionTable : Obligations.ReceiveTransitionTable := by
  refine fun i s => ⟨fun t ht hclk => ?_, fun hr hp l => ?_⟩
  · cases i with
    | init =>
      obtain ⟨-, rfl⟩ := execInit_cases ht
      rfl
    | edge =>
      rw [edgeHandler_phase ht]
      cases hp : s.rx.phase <;> simp [edgeEnable, hp]
    | rxtick l =>
      rw [rxTickHandler_phase ht]
      cases s.rx.phase <;> cases l <;> rfl
    | getc =>
      obtain ⟨hrx, -⟩ := execGetc_frame ht
      exact congrArg _ hrx
    | putc b => exact (execPutc_receiveSide ht).phase_eq
    | arm c p => exact congrArg _ (exec_timer_rx (.inr (.inl ⟨p, rfl⟩)) ht)
    | disarm c => exact congrArg _ (exec_timer_rx (.inl rfl) ht)
    | rearm1 c d => exact congrArg _ (exec_timer_rx (.inr (.inr ⟨d, rfl⟩)) ht)
    | txstart => exact (txStart_receiveSide (onlyInside_eq_next.1 ht).2).phase_eq
    | txtick => exact (txTickHandler_receiveSide ht).phase_eq
    | clk l => exact absurd rfl (hclk l)
  · exact rxTickHandler_disarmed hr.initialised (by simp [hr.ok.rxArmed, hp])

end Sys2Proof.Machine
end

section
/-! The interrupt events and the tick complete in a running block (R120, R121, R141, R180). -/

namespace Sys2Proof.Machine

variable {s : State} {c : Chan}

/-- There are no faults, so an operation that is not refused completes (R11, R200). -/
theorem completes_of_not_refused {r : Result} (h : ∀ e, r ≠ .refused e) : ∃ t, r = .next t := by
  cases r with
  | next t => exact ⟨t, rfl⟩
  | fault f => cases f
  | refused e => exact absurd rfl (h e)

/-- A receive firing on an armed channel completes (R37 I5, R121). -/
theorem Running.rxTickHandler_completes (hr : Running s) (ha : s.tm.rx.armed = true) (l : Level) :
    ∃ t, rxTickHandler l s = .next t := by
  have hp : s.rx.phase ≠ .idle := by simpa [hr.ok.rxArmed] using ha
  refine completes_of_not_refused fun e he => ?_
  simpa [hr.initialised, ha, hp] using rxTickHandler_refused he

/-- A transmit firing on an armed channel completes (R37 I6, R141). -/
theorem Running.txTickHandler_completes (hr : Running s) (ha : s.tm.tx.armed = true) :
    ∃ t, txTickHandler s = .next t := by
  have hp : s.tx.phase ≠ .idle := by simpa [hr.ok.txArmed] using ha
  refine completes_of_not_refused fun e he => ?_
  simpa [hr.initialised, ha, hp] using txTickHandler_refused he

/-- A channel step of `CLK` completes when its handler, which does not see the count, does (R180). -/
theorem clockChan_completes {k : State → Result} (hcount : k (countDown c s) = k s)
    (hk : (s.chan c).armed = true → ∃ t, k s = .next t) : ∃ t, clockChan c k s = .next t := by
  cases ha : (s.chan c).armed with
  | false => exact ⟨s, clockChan_disarmed ha⟩
  | true =>
    by_cases hc : (s.chan c).count = 1
    · rw [clockChan_fires ha hc, hcount]
      exact hk ha
    · exact ⟨_, clockChan_counts ha hc⟩

/-- A tick of a running block completes: its first firing leaves a running block to the second (R180). -/
theorem Running.execClk_completes (hr : Running s) (l : Level) : ∃ t, execClk l s = .next t := by
  obtain ⟨u, hu⟩ := clockChan_completes (txTickHandler_countDown s) hr.txTickHandler_completes
  have hru : Running u :=
    hr.after_clockChan (txTickHandler_countDown s) (fun _ => hr.after_txTickHandler) hu
  obtain ⟨v, hv⟩ :=
    clockChan_completes (rxTickHandler_countDown l u) fun ha => hru.rxTickHandler_completes ha l
  obtain ⟨t, ht⟩ := clockEdge_completes l v
  exact ⟨t, by rw [execClk_running hr.initialised, hu, andThen_next, hv, andThen_next, ht]⟩

/-- Settles O52: out of `Idle` the channel is armed, and an edge and a tick find nothing to refuse. -/
theorem interruptEventsComplete : Obligations.InterruptEventsComplete := by
  refine fun s l hr => ⟨fun hp => ?_, fun hp => ?_, edgeHandler_completes s, hr.execClk_completes l⟩
  · exact hr.rxTickHandler_completes (by simp [hr.ok.rxArmed, hp]) l
  · exact hr.txTickHandler_completes (by simp [hr.ok.txArmed, hp])

end Sys2Proof.Machine
end

section
/-! A whole reception: the edge and the ten firings are the decoding of the frame they sample (R92, R129). -/

namespace Sys2Proof.Machine

variable {s : State} {smp : Nat → Level} {j : Nat}

/-! ## The samples in the accumulator -/

/-- Bit `i` of the accumulator after `j` samples is the sample that entered `8 - i` samples ago, if any (R125). -/
theorem accumulator_bit (smp : Nat → Level) (j i : Nat) :
    (accumulator smp j).getLsbD i =
      if i < 8 ∧ 8 ≤ i + j then smp (i + j - 8) else false := by
  induction j generalizing i with
  | zero => simp
  | succ j ih =>
    rw [accumulator_succ, shiftIn_bit, ih]
    by_cases h7 : i = 7
    · simp [h7, Nat.add_comm 7]
    · have hsum : i + 1 + j = i + (j + 1) := by omega
      by_cases hlt : i < 7
      · have h8 : i < 8 ∧ i + 1 < 8 := by omega
        simp [h7, hlt, h8, hsum]
      · have h8 : ¬i < 8 := by omega
        simp [h7, hlt, h8]

/-- The eight data samples, taken at firings 2 to 9, leave the byte of the frame (R92, R125). -/
theorem accumulator_eq_byteOfSamples (smp : Nat → Level) :
    accumulator (fun k => smp (k + 2)) 8 = byteOfSamples smp := by
  apply BitVec.eq_of_getLsbD_eq
  intro i hi
  rw [accumulator_bit, byteOfSamples_bit smp ⟨i, hi⟩]
  simp [hi]

/-! ## The firings of the data bits -/

/-- The phase after `j` data samples (R124). -/
def dataPhase (j : Nat) : RxPhase := if h : j < 8 then .samplingBit ⟨j, h⟩ else .stopExpected

theorem afterSample_eq_dataPhase (i : Fin 8) : afterSample i = dataPhase (i.val + 1) := by
  by_cases h : i.val < 7
  · have h8 : i.val + 1 < 8 := by omega
    simp [afterSample, dataPhase, h, h8]
  · have h8 : ¬i.val + 1 < 8 := by omega
    simp [afterSample, dataPhase, h, h8]

/-- The state `s` with the receiver in the middle of a frame: `j` of the data samples `smp 2` to `smp 9` taken, the
channel reloaded by the last firing (R124, R125). -/
def sampling (smp : Nat → Level) (j : Nat) (s : State) : State := { s with
  rx := { phase := dataPhase j, shiftRegister := accumulator (fun k => smp (k + 2)) j,
          bitsReceived := bitCount j }
  tm := { s.tm with rx := { armed := true, oneShot := false, count := ticksOf s.cfg.bitPeriod,
                            period := ticksOf s.cfg.bitPeriod } } }

theorem sampling_byte (smp : Nat → Level) (s : State) :
    (sampling smp 8 s).rx.shiftRegister = byteOfSamples smp :=
  accumulator_eq_byteOfSamples smp

/-- One more data sample (R124). -/
theorem exec_rxtick_sampling (hr : Running (sampling smp j s)) (hj : j < 8) :
    exec (.rxtick (smp (j + 2))) (sampling smp j s) = .next (sampling smp (j + 1) s) := by
  rw [hr.exec_rxtick_data (i := ⟨j, hj⟩) (dif_pos hj), rxDataBody, afterSample_eq_dataPhase]
  simp only [sampling, accumulator_succ]
  rfl

/-- The first `j` firings after the start bit take `j` data samples (R124). -/
theorem runOps_sampling (hr : Running (sampling smp 0 s)) (hj : j ≤ 8) :
    runOps ((List.range j).map fun k => .rxtick (smp (k + 2))) (sampling smp 0 s) =
      .next (sampling smp j s) ∧ Running (sampling smp j s) := by
  induction j with
  | zero => exact ⟨rfl, hr⟩
  | succ j ih =>
    obtain ⟨hrun, hrj⟩ := ih (by omega)
    have hnext := exec_rxtick_sampling hrj (by omega)
    refine ⟨?_, hrj.after_exec hnext⟩
    rw [List.range_succ, List.map_append, runOps_append, hrun, andThen_next]
    exact runOps_cons_of_next hnext

/-! ## The whole frame -/

/-- In an idle receiver the channel is determined but for its period (R37 I5, I7, I8). -/
theorem Running.rxChannel_idle (hr : Running s) (hp : s.rx.phase = .idle) :
    s.tm.rx = { armed := false, oneShot := false, count := 0, period := s.tm.rx.period } := by
  have ha : s.tm.rx.armed = false := by simp [hr.ok.rxArmed, hp]
  have ho : s.tm.rx.oneShot = false := by simp [hr.ok.rxOneShot, hp]
  have hc := hr.ok.rxChannel.countDisarmed ha
  change Channel.mk s.tm.rx.armed s.tm.rx.oneShot s.tm.rx.count s.tm.rx.period = _
  rw [ha, ho, hc]

/-- An edge starts a reception in an idle receiver of a running block (R120). -/
theorem Running.exec_edge_idle (hr : Running s) (hp : s.rx.phase = .idle) :
    exec .edge s = .next { s with
      rx := { phase := .startDetected, shiftRegister := 0, bitsReceived := 0 }
      tm := { s.tm with rx := { armed := true, oneShot := true, count := ticksOf s.cfg.halfBit,
                                period := s.tm.rx.period } } } := by
  obtain ⟨hstart, -, -⟩ := edgeStartsReception
  exact hstart s hr.initialised hr.gie hp

/-- A false start leaves only its signal: the receiver and its channel are as they were (R122, R201). -/
theorem Running.runOps_falseStart (hr : Running s) (hp : s.rx.phase = .idle) :
    runOps [.edge, .rxtick true] s =
      .next { s with outputs := .signal .falseStart :: s.outputs } := by
  have hedge := hr.exec_edge_idle hp
  obtain ⟨hhigh, -⟩ := startBitValidated _ (hr.after_exec hedge) rfl
  rw [runOps_cons_of_next hedge, runOps_cons_of_next hhigh, runOps_nil]
  simp only [← hr.rxChannel_idle hp, ← hr.rx_quiet hp (.inl rfl)]

/-- An edge and a low start sample leave a running block about to take the first data sample (R120, R122). -/
theorem Running.runOps_startBit (hr : Running s) (hp : s.rx.phase = .idle) (smp : Nat → Level) :
    runOps [.edge, .rxtick false] s = .next (sampling smp 0 s) ∧ Running (sampling smp 0 s) := by
  have hedge := hr.exec_edge_idle hp
  have hstarted := hr.after_exec hedge
  obtain ⟨-, hlow⟩ := startBitValidated _ hstarted rfl
  refine ⟨?_, hstarted.after_exec hlow⟩
  rw [runOps_cons_of_next hedge, runOps_cons_of_next hlow]
  rfl

/-- With a low start sample the edge and the ten firings take the eight data samples and end the frame (R129). -/
theorem Running.runOps_rxSampled (hr : Running s) (hp : s.rx.phase = .idle) (h1 : smp 1 = false) :
    runOps (rxSampled smp) s = .next (rxStopBody (smp 10) (sampling smp 8 s)) := by
  have hsplit : rxSampled smp = [.edge, .rxtick false] ++
      ((List.range 8).map (fun k => .rxtick (smp (k + 2))) ++ [.rxtick (smp 10)]) := by
    rw [← h1]
    rfl
  obtain ⟨hstart, hr0⟩ := hr.runOps_startBit hp smp
  obtain ⟨hdata, hr8⟩ := runOps_sampling hr0 (le_refl 8)
  rw [hsplit, runOps_append, hstart, andThen_next, runOps_append, hdata, andThen_next]
  exact runOps_cons_of_next (hr8.exec_rxtick_stop rfl _)

/-- After the frame the idle receiver is as it was, its stopped channel with the bit period (R126). -/
theorem Running.frameEnded_sampling (hr : Running s) (hp : s.rx.phase = .idle) (smp : Nat → Level)
    (j : Nat) :
    frameEnded (sampling smp j s) = { s with tm := { s.tm with rx :=
      { armed := false, oneShot := false, count := 0, period := ticksOf s.cfg.bitPeriod } } } := by
  have hrx := hr.rx_quiet hp (.inl rfl)
  simp only [frameEnded, setRx, ← hrx]
  rfl

/-- Settles O31: the start sample decides whether anything follows the edge, the accumulator holds the byte of the
data samples, and the stop sample what becomes of it. -/
theorem receptionDecodesFrame : Obligations.ReceptionDecodesFrame := by
  rintro s u smp hr hp rfl
  obtain ⟨-, hdecode, -⟩ := frameDecoding
  obtain ⟨hfalse, hbyte, hbad⟩ := hdecode smp
  cases h1 : smp 1 with
  | true =>
    rw [hfalse h1]
    exact hr.runOps_falseStart hp
  | false =>
    have hrun := hr.runOps_rxSampled hp h1
    cases h10 : smp 10 with
    | true =>
      rw [h10, rxStopBody_high, sampling_byte, hr.frameEnded_sampling hp] at hrun
      rw [hbyte h1 h10]
      exact hrun
    | false =>
      rw [hbad h1 h10]
      rw [h10] at hrun
      cases hf : s.cfg.framing with
      | discard =>
        rw [rxStopBody_low_discard (s := sampling smp 8 s) hf, hr.frameEnded_sampling hp] at hrun
        exact hrun
      | deliver =>
        rw [rxStopBody_low_deliver (s := sampling smp 8 s) hf, sampling_byte,
          hr.frameEnded_sampling hp] at hrun
        exact hrun

end Sys2Proof.Machine
end

section
/-! The transmit operations one by one: the withdrawal of a queued byte, the firings of a frame, and its end (R140 to
R146). -/

namespace Sys2Proof.Machine

variable {s : State} {i : Fin 8}

/-! ## TXSTART (R140) -/

theorem exec_txstart_inside (h : s.nesting = .inside) : exec .txstart s = txStart s :=
  onlyInside_inside s _ h

/-- Settles O32: `TXSTART` acts on an idle driver with a byte queued, and on nothing else. -/
theorem txstartWithdrawsByte : Obligations.TxstartWithdrawsByte := by
  refine ⟨fun s b hn hi hb hbyte ha => ?_, fun s hn hq => ?_, decode_encode (i := .txstart) rfl⟩
  · rw [exec_txstart_inside hn]
    exact txStart_acts hi hb hbyte ha
  · rw [exec_txstart_inside hn]
    refine txStart_idle ?_
    rintro ⟨hi, hb⟩
    simp [hi, hb] at hq

/-! ## The firings within a frame (R142 to R144) -/

/-- A firing out of `Idle` is its handler body on the reloaded channel (R106, R108, R141). -/
theorem Running.exec_txtick_reloaded (hr : Running s) (hp : s.tx.phase ≠ .idle) :
    exec .txtick s = txBody { s with tm := { s.tm with tx :=
      { armed := true, oneShot := false, count := ticksOf s.cfg.bitPeriod,
        period := ticksOf s.cfg.bitPeriod } } } := by
  rw [hr.exec_txtick hp, hr.fire_tx_periodic hp]

theorem txDataBitEnd_next (h : i.val < 7) (s : State) :
    txDataBitEnd i s =
      setTx { s.tx with phase := .sendingBit ⟨i.val + 1, Nat.succ_lt_succ h⟩, bitsSent := bitCount (i.val + 2) }
        (setPinTx (s.tx.pendingByte.getLsbD (i.val + 1)) s) :=
  dif_pos h

theorem txDataBitEnd_last (s : State) :
    txDataBitEnd 7 s = setTx { s.tx with phase := .sendingStop } (setPinTx true s) :=
  rfl

/-- Settles O33: the handler bodies of the start bit and of the data bits; after bit 7 the count of bits stays at the
8 that the invariant gives it. -/
theorem txtickSendsNextBit : Obligations.TxtickSendsNextBit := by
  rintro s u hr rfl
  refine ⟨fun hp => ?_, fun i hi hp => ?_, fun hp => ?_⟩
  · rw [hr.exec_txtick_reloaded (by simp [hp])]
    simp only [txBody, hp]
    rfl
  · rw [hr.exec_txtick_reloaded (by simp [hp])]
    simp only [txBody, hp, txDataBitEnd_next hi]
    rfl
  · have hbits : s.tx.bitsSent = 8 := by rw [hr.ok.bitsSent, hp]; rfl
    rw [hr.exec_txtick_reloaded (by simp [hp])]
    simp only [txBody, hp, txDataBitEnd_last, hbits]
    rfl

/-! ## The end of a frame (R146) -/

/-- A running block in `SendingStop` has the stop bit of some byte on the pin (R24, R81). -/
theorem Running.sending_stop (hr : Running s) (hp : s.tx.phase = .sendingStop) :
    Sending s.tx.pendingByte s.mb.transmitByte 9 s :=
  ⟨hr, by rw [hp]; rfl, rfl, rfl⟩

/-- The stop bit is high (R24, R80). -/
theorem Running.pin_stop (hr : Running s) (hp : s.tx.phase = .sendingStop) : s.pin.tx = true := by
  rw [hr.ok.pinLevel, hp]
  rfl

/-- The tenth firing is a `TXSTART` on a resting driver (R146). -/
theorem Running.exec_txtick_stop (hr : Running s) (hp : s.tx.phase = .sendingStop) :
    exec .txtick s = txStart
      (setTx { phase := .idle, pendingByte := 0, bitsSent := 0 } (disarm .tx s)) := by
  rw [(hr.sending_stop hp).exec_txtick_stop, disarm_fire]

/-- Settles O34: the flag of the slot decides whether that `TXSTART` acts. -/
theorem stopBitEndsOrRestarts : Obligations.StopBitEndsOrRestarts := by
  intro s hr hp
  rw [hr.exec_txtick_stop hp]
  refine ⟨fun hb => ?_, fun b hb hbyte => ?_⟩
  · rw [txStart_idle (by simp [disarm, hb]), ← hr.pin_stop hp]
    rfl
  · exact txStart_acts rfl hb hbyte rfl

end Sys2Proof.Machine
end

section
/-! The complete transition table of the driver's phase and of the output pin (R147). -/

namespace Sys2Proof.Machine

variable {s t : State} {c : Chan} {b : Byte} {i : Instr}

/-- The operations that have a row in R147, and `CLK`, which performs them. -/
def movesDriver : Instr → Bool
  | .init | .putc _ | .txstart | .txtick | .clk _ => true
  | .getc | .arm _ _ | .disarm _ | .rearm1 _ _ | .edge | .rxtick _ => false

/-- The driver and the output pin are the transmit side's own (R24 to R26, R31). -/
theorem SameTransmitSide.driver_eq (h : SameTransmitSide s t) : t.tx = s.tx ∧ t.pin.tx = s.pin.tx := by
  obtain ⟨htx, hpin, -⟩ := h
  exact ⟨htx, hpin⟩

/-- The timer operations do not reach the driver or the pin (R101 to R103). -/
theorem exec_timer_driver (hi : i = .disarm c ∨ (∃ p, i = .arm c p) ∨ ∃ d, i = .rearm1 c d)
    (ht : exec i s = .next t) : t.tx = s.tx ∧ t.pin.tx = s.pin.tx := by
  obtain ⟨-, -, htx, -, hpin, -⟩ := timerOperationsFrame i s t c hi ht
  exact ⟨htx, congrArg _ hpin⟩

/-- An operation without a row in the table leaves the driver and the pin (R147). -/
theorem exec_driver_kept (hi : movesDriver i = false) (ht : exec i s = .next t) :
    t.tx = s.tx ∧ t.pin.tx = s.pin.tx := by
  cases i with
  | init | putc | txstart | txtick | clk => cases hi
  | getc => exact (execGetc_transmitSide ht).driver_eq
  | arm c p => exact exec_timer_driver (.inr (.inl ⟨p, rfl⟩)) ht
  | disarm c => exact exec_timer_driver (.inl rfl) ht
  | rearm1 c d => exact exec_timer_driver (.inr (.inr ⟨d, rfl⟩)) ht
  | edge => exact (edgeHandler_transmitSide ht).driver_eq
  | rxtick l => exact (rxTickHandler_transmitSide ht).driver_eq

/-- The phase and the pin after a `TXSTART` (R140, R147). -/
theorem txStart_moves (ht : txStart s = .next t) : (t.tx.phase, t.pin.tx) =
    if s.tx.phase = .idle ∧ s.mb.transmitBusy = true then (.sendingStart, false)
    else (s.tx.phase, s.pin.tx) := by
  obtain ⟨hq, rfl⟩ | ⟨hq, ht⟩ := txStart_cases ht
  · rw [if_neg hq]
  · obtain ⟨v, rfl, -⟩ := arm_writes ht
    rw [if_pos hq]
    simp [withdraw]

/-- The phase and the pin after a `PUTC` (R147, R162). -/
theorem execPutc_moves (ht : execPutc b s = .next t) : (t.tx.phase, t.pin.tx) =
    if s.tx.phase = .idle ∧ s.mb.transmitBusy = false then (.sendingStart, false)
    else (s.tx.phase, s.pin.tx) := by
  obtain ⟨-, ⟨hb, rfl⟩ | ⟨hb, u, hu, rfl⟩⟩ := execPutc_cases ht
  · simp [hb]
  · simpa [hb] using txStart_moves hu

/-- The phase and the pin that follow a firing; in `Idle` there is none (R147). -/
def afterFiring (s : State) : TxPhase × Level :=
  match s.tx.phase with
  | .idle => (.idle, s.pin.tx)
  | .sendingStart => (.sendingBit 0, s.tx.pendingByte.getLsbD 0)
  | .sendingBit i =>
    if h : i.val < 7 then
      (.sendingBit ⟨i.val + 1, Nat.succ_lt_succ h⟩, s.tx.pendingByte.getLsbD (i.val + 1))
    else (.sendingStop, true)
  | .sendingStop => if s.mb.transmitBusy then (.sendingStart, false) else (.idle, s.pin.tx)

theorem txBody_moves (ht : txBody s = .next t) : (t.tx.phase, t.pin.tx) = afterFiring s := by
  obtain ⟨hp, rfl⟩ | ⟨i, hp, rfl⟩ | ⟨hp, ht⟩ := txBody_cases ht
  · simp only [afterFiring, hp]
    rfl
  · simp only [afterFiring, hp, txDataBitEnd]
    split <;> rfl
  · simpa [afterFiring, hp, disarm] using txStart_moves ht

/-- A firing of a channel leaves what the table reads (R106). -/
theorem afterFiring_fire (c : Chan) (s : State) : afterFiring (fire c s) = afterFiring s := by
  obtain ⟨v, hv⟩ := fire_frame c s
  simp [afterFiring, hv]

theorem txTickHandler_moves (ht : txTickHandler s = .next t) :
    (t.tx.phase, t.pin.tx) = afterFiring s := by
  obtain ⟨-, -, hbody⟩ := txTickHandler_cases ht
  rw [txBody_moves hbody, afterFiring_fire]

/-- Settles O35: `PUTC`, `TXSTART` and a firing move the driver, `INIT` resets it, and the rest leaves it. -/
theorem transmitTransitionTable : Obligations.TransmitTransitionTable := by
  refine fun i s => ⟨fun t ht hclk => ?_, fun hr hp => hr.pin_stop hp, fun hr hp => ?_⟩
  · cases i with
    | init =>
      obtain ⟨-, rfl⟩ := execInit_cases ht
      rfl
    | putc b =>
      rw [execPutc_moves ht]
      cases s.tx.phase <;> cases s.mb.transmitBusy <;> rfl
    | txstart =>
      rw [txStart_moves (onlyInside_eq_next.1 ht).2]
      cases s.tx.phase <;> cases s.mb.transmitBusy <;> rfl
    | txtick =>
      rw [txTickHandler_moves ht, afterFiring]
      cases s.tx.phase <;> rfl
    | clk l => exact absurd rfl (hclk l)
    | _ =>
      obtain ⟨htx, hpin⟩ := exec_driver_kept rfl ht
      rw [htx, hpin]
  · exact txTickHandler_disarmed hr.initialised (by simp [hr.ok.txArmed, hp])

end Sys2Proof.Machine
end

section
/-! The waveform of a transmitted byte: its cells one by one, with nothing shown but the result of the `PUTC`, and
with no way to break it off (R148). -/

namespace Sys2Proof.Machine

variable {s t : State} {b : Byte} {i : Instr} {n : Nat}

/-! ## What the transmit operations show -/

theorem txStart_outputs (ht : txStart s = .next t) : t.outputs = s.outputs := by
  obtain ⟨-, rfl⟩ | ⟨-, ht⟩ := txStart_cases ht
  · rfl
  · obtain ⟨v, rfl, -⟩ := arm_writes ht
    simp [withdraw]

/-- A transmit firing shows nothing (R141). -/
theorem txTickHandler_outputs (ht : txTickHandler s = .next t) : t.outputs = s.outputs := by
  obtain ⟨-, -, ht⟩ := txTickHandler_cases ht
  obtain ⟨v, hv⟩ := fire_frame .tx s
  rw [hv] at ht
  obtain ⟨-, rfl⟩ | ⟨i, -, rfl⟩ | ⟨-, ht⟩ := txBody_cases ht
  · simp [txStartBitEnd]
  · unfold txDataBitEnd
    split <;> simp
  · have hshown := txStart_outputs ht
    simpa [disarm] using hshown

/-- A `PUTC` that finds the slot free shows its result and no condition (R162). -/
theorem execPutc_free_outputs (hb : s.mb.transmitBusy = false) (ht : execPutc b s = .next t) :
    t.outputs = .putc true :: s.outputs := by
  obtain ⟨-, ⟨hbusy, -⟩ | ⟨-, u, hu, rfl⟩⟩ := execPutc_cases ht
  · simp [hb] at hbusy
  · simp [txStart_outputs hu]

/-- Firings of channel `TX` raise no error condition (R148, R200). -/
theorem runOps_txRun_quiet (ht : runOps (txRun n) s = .next t) :
    t.outputs = s.outputs ∧ t.err = s.err := by
  induction n generalizing s with
  | zero =>
    cases ht
    exact ⟨rfl, rfl⟩
  | succ n ih =>
    obtain ⟨u, hu, ht⟩ := andThen_eq_next.1 ht
    obtain ⟨hout, herr⟩ := ih ht
    exact ⟨hout.trans (txTickHandler_outputs hu), herr.trans (txTickHandler_receiveSide hu).err_eq⟩

/-! ## A frame is not broken off -/

/-- A `PUTC` during a frame leaves the driver and the pin (R162). -/
theorem execPutc_sending (hp : s.tx.phase ≠ .idle) (ht : execPutc b s = .next t) :
    t.tx = s.tx ∧ t.pin.tx = s.pin.tx := by
  obtain ⟨-, ⟨-, rfl⟩ | ⟨-, u, hu, rfl⟩⟩ := execPutc_cases ht
  · exact ⟨rfl, rfl⟩
  · cases (txStart_idle (by simp [hp])).symm.trans hu
    exact ⟨rfl, rfl⟩

/-- During a frame only a firing moves the driver or the pin (R148). -/
theorem Running.driver_kept (hr : Running s) (hp : s.tx.phase ≠ .idle) (htick : i ≠ .txtick)
    (hclk : ∀ l, i ≠ .clk l) (ht : exec i s = .next t) : t.tx = s.tx ∧ t.pin.tx = s.pin.tx := by
  cases i with
  | init =>
    obtain ⟨hi, -⟩ := execInit_cases ht
    simp [hr.initialised] at hi
  | putc b => exact execPutc_sending hp ht
  | txstart =>
    rw [execTxstart_idle (.inl hp) ht]
    exact ⟨rfl, rfl⟩
  | txtick => exact absurd rfl htick
  | clk l => exact absurd rfl (hclk l)
  | _ => exact exec_driver_kept rfl ht

/-! ## The waveform -/

/-- The tenth firing after a start bit with nothing queued leaves the line at rest (R146). -/
theorem Sending.run_last (h : Sending b none 0 s) :
    ∃ t, runOps (txRun 10) s = .next t ∧ Running t ∧ t.tx.phase = .idle := by
  obtain ⟨u, hstop, hrun⟩ := h.run_whole
  obtain ⟨t, ht, hrest⟩ := hstop.txtick_last
  refine ⟨t, ?_, hrest⟩
  rw [hrun 0, ht]
  rfl

/-- Settles O36: the `PUTC` puts the start bit on the pin, and each firing the next cell. -/
theorem transmittedWaveform : Obligations.TransmittedWaveform := by
  intro s b hr hidle
  obtain ⟨u, hu, hstart⟩ := hr.putc_idle hidle b
  obtain ⟨-, hfree, -⟩ := hr.ok.txIdle hidle
  have hquiet {n : Nat} {t : State} (ht : runOps (txRun n) u = .next t) :
      t.outputs = .putc true :: s.outputs ∧ t.err = s.err := by
    obtain ⟨hout, herr⟩ := runOps_txRun_quiet ht
    exact ⟨hout.trans (execPutc_free_outputs hfree hu), herr.trans (execPutc_err hu)⟩
  simp only [runOps_cons_of_next hu]
  refine ⟨fun k hk => ?_, ?_, fun i v t hv hp htick hclk ht => hv.driver_kept hp htick hclk ht⟩
  · obtain ⟨t, ht, hcell⟩ := hstart.run (n := k) (by omega)
    rw [Nat.zero_add] at hcell
    exact ⟨t, ht, hcell.pin, hcell.byte, hcell.phase_ne_idle, hquiet ht⟩
  · obtain ⟨t, ht, htr, hrest⟩ := hstart.run_last
    obtain ⟨hpin, -⟩ := htr.ok.txIdle hrest
    exact ⟨t, ht, hpin, hrest, by simp [htr.ok.txArmed, hrest], hquiet ht⟩

end Sys2Proof.Machine
end

section
/-! The driver interface before and at `INIT` (R165, R166), and `GETC` with the flag it reads (R160). -/

namespace Sys2Proof.Machine

variable {s t : State} {i : Instr} {l : Level}

/-! ## The lifecycle (R165, R166) -/

theorem execInit_uninitialised (hi : s.ctl.initialised = false) : execInit s = .next (initialise s) := by
  simp [execInit, hi]

theorem execInit_initialised (hi : s.ctl.initialised = true) : execInit s = .refused .reInit := by
  simp [execInit, hi]

theorem execGetc_before_init (hi : s.ctl.initialised = false) :
    execGetc s = .refused .notInitialised := by
  simp [execGetc, hi]

theorem execPutc_before_init (hi : s.ctl.initialised = false) (b : Byte) :
    execPutc b s = .refused .notInitialised := by
  simp [execPutc, hi]

theorem rxTickHandler_before_init (hi : s.ctl.initialised = false) (l : Level) :
    rxTickHandler l s = .refused .notInitialised := by
  simp [rxTickHandler, hi]

theorem txTickHandler_before_init (hi : s.ctl.initialised = false) :
    txTickHandler s = .refused .notInitialised := by
  simp [txTickHandler, hi]

theorem edgeHandler_before_init (hi : s.ctl.initialised = false) : edgeHandler s = .next s :=
  edgeHandler_disabled (by simp [edgeEnable, hi])

/-- Settles O11: `INIT` tests `ctl.initialised` alone, and the state it leaves is that of R38's column. -/
theorem initResetsEverything : Obligations.InitResetsEverything := fun _ =>
  ⟨execInit_uninitialised, execInit_initialised, decode_encode (i := .init) rfl⟩

/-- Settles O12: each operation tests `ctl.initialised` first, `EDGE` through `edgeEnable`. -/
theorem outsideTheLifecycle : Obligations.OutsideTheLifecycle := fun _ =>
  ⟨execInit_initialised, fun hi => ⟨execGetc_before_init hi, execPutc_before_init hi,
    rxTickHandler_before_init hi, txTickHandler_before_init hi, edgeHandler_before_init hi,
    fun _ => execClk_before_init hi⟩⟩

/-! ## The flag of the receive slot (R160) -/

/-- A completed `GETC` leaves nothing for a second one (R160). -/
theorem execGetc_leaves_empty (ht : execGetc s = .next t) :
    t.ctl.initialised = true ∧ t.mb.receivedReady = false := by
  obtain ⟨hi, ⟨-, rfl⟩ | ⟨hempty, rfl⟩⟩ := execGetc_cases ht
  · simpa [takeReceived] using hi
  · exact ⟨hi, hempty⟩

/-- A receive firing before the stop bit does not reach the mailbox (R122, R124). -/
theorem rxTickHandler_mb (hp : s.rx.phase ≠ .stopExpected) (ht : rxTickHandler l s = .next t) :
    t.mb = s.mb := by
  obtain ⟨-, -, ht⟩ := rxTickHandler_cases ht
  obtain ⟨-, -, rfl⟩ | ⟨-, -, harm⟩ | ⟨i, -, rfl⟩ | ⟨hstop, -⟩ := rxBody_cases ht
  · simp [disarm]
  · obtain ⟨v, rfl, -⟩ := arm_writes harm
    simp
  · simp [rxDataBody]
  · exact absurd (by simpa using hstop) hp

theorem clockChan_rx_mb (hp : s.rx.phase ≠ .stopExpected)
    (ht : clockChan .rx (rxTickHandler l) s = .next t) : t.mb = s.mb := by
  obtain ⟨-, rfl⟩ | ⟨-, -, rfl⟩ | ⟨-, -, ht⟩ := clockChan_cases ht
  · rfl
  · simp [countDown]
  · rw [rxTickHandler_countDown] at ht
    exact rxTickHandler_mb hp ht

/-- A tick before the stop bit of a frame keeps the flag of the receive slot (R127, R180). -/
theorem execClk_receivedReady (hp : s.rx.phase ≠ .stopExpected) (ht : execClk l s = .next t) :
    t.mb.receivedReady = s.mb.receivedReady := by
  cases hi : s.ctl.initialised with
  | false =>
    cases (execClk_before_init hi).symm.trans ht
    rfl
  | true =>
    obtain ⟨u, v, hu, hv, ht⟩ := execClk_cases hi ht
    have hsu := clockChan_tx_receiveSide hu
    obtain ⟨-, hready⟩ := hsu.slot_eq
    rw [clockEdge_mb ht, clockChan_rx_mb (by rwa [hsu.phase_eq]) hv, hready]

/-- Only a receive firing in `StopExpected` sets the flag of the receive slot (R160). -/
theorem exec_sets_receivedReady (ht : exec i s = .next t) (h0 : s.mb.receivedReady = false)
    (h1 : t.mb.receivedReady = true) :
    s.rx.phase = .stopExpected ∧ ∃ l, i = .rxtick l ∨ i = .clk l := by
  have hset : t.mb.receivedReady ≠ s.mb.receivedReady := by simp [h0, h1]
  obtain (rfl | rfl | ⟨l, hi⟩) | ⟨-, hkept⟩ := exec_receiveSlot ht
  · obtain ⟨-, rfl⟩ := execInit_cases ht
    cases h1
  · obtain ⟨-, hempty⟩ := execGetc_leaves_empty ht
    cases hempty.symm.trans h1
  · refine ⟨by_contra fun hp => hset ?_, l, hi⟩
    obtain rfl | rfl := hi
    · rw [rxTickHandler_mb hp ht]
    · exact execClk_receivedReady hp ht
  · exact absurd hkept hset

/-- Settles O13: `GETC` tests the flag, and the flag is the receive firings' to set. -/
theorem getcTakesReceivedByte : Obligations.GetcTakesReceivedByte := by
  refine ⟨fun s hi => execGetc_before_init hi, fun s b hi hready hb => execGetc_ready hi hready hb,
    fun s hi hempty => execGetc_empty hi hempty, fun s t ht => ?_,
    fun i s t ht => exec_sets_receivedReady ht, decode_encode (i := .getc) rfl⟩
  obtain ⟨hi, hempty⟩ := execGetc_leaves_empty ht
  exact execGetc_empty hi hempty

end Sys2Proof.Machine
end

section
/-! What each operation shows: no operation but `GETC` shows a `GETC`'s result (R11, R13, R161). -/

namespace Sys2Proof.Machine

variable {s t u : State} {c : Chan} {p : Nat} {l : Level} {b : Byte} {i : Instr} {o : Output}
  {P Q : Output → Prop}

/-- From `s` to `t` outputs were added, and each of them satisfies `P`. -/
def Shows (P : Output → Prop) (s t : State) : Prop :=
  ∃ new : List Output, t.outputs = new ++ s.outputs ∧ ∀ o ∈ new, P o

theorem Shows.nothing (h : t.outputs = s.outputs) : Shows P s t := ⟨[], h, by simp⟩

theorem Shows.one (ho : P o) (h : t.outputs = o :: s.outputs) : Shows P s t := ⟨[o], h, by simpa⟩

theorem Shows.trans (h : Shows P s t) (g : Shows P t u) : Shows P s u := by
  obtain ⟨new, hnew, hP⟩ := h
  obtain ⟨newer, hnewer, hP'⟩ := g
  refine ⟨newer ++ new, by rw [hnewer, hnew, List.append_assoc], fun o ho => ?_⟩
  exact (List.mem_append.1 ho).elim (hP' o) (hP o)

theorem Shows.mono (h : Shows P s t) (hPQ : ∀ o, P o → Q o) : Shows Q s t := by
  obtain ⟨new, hnew, hP⟩ := h
  exact ⟨new, hnew, fun o ho => hPQ o (hP o ho)⟩

/-- The output is the result of a `PUTC` or a condition signalled, not the result of a `GETC`. -/
def Output.NotGetc (o : Output) : Prop := ∀ r, o ≠ .getc r

theorem Output.notGetc_putc (ok : Bool) : (Output.putc ok).NotGetc := by simp [Output.NotGetc]

theorem Output.notGetc_signal (c : Condition) : (Output.signal c).NotGetc := by simp [Output.NotGetc]

/-- The outputs added since the latest `GETC` do not change what it returned. -/
theorem Shows.lastGetc_eq (h : Shows Output.NotGetc s t) : lastGetc t.outputs = lastGetc s.outputs := by
  obtain ⟨new, hnew, hP⟩ := h
  rw [hnew]
  clear hnew
  induction new with
  | nil => rfl
  | cons o new ih =>
    obtain ⟨ho, hrest⟩ := List.forall_mem_cons.1 hP
    cases o with
    | getc r => exact absurd rfl (ho r)
    | putc ok => exact ih hrest
    | signal c => exact ih hrest

/-! ## The receive handlers -/

theorem arm_outputs (ht : arm c p s = .next t) : t.outputs = s.outputs := by
  obtain ⟨v, rfl, -⟩ := arm_writes ht
  simp

theorem edgeHandler_outputs (ht : edgeHandler s = .next t) : t.outputs = s.outputs := by
  obtain ⟨-, rfl⟩ | ⟨-, rfl⟩ := edgeHandler_cases ht <;> simp

theorem deposit_shows (b : Byte) (s : State) : Shows Output.NotGetc s (deposit b s) := by
  cases hr : s.mb.receivedReady with
  | false => exact .nothing (by rw [deposit_empty hr])
  | true =>
    refine .one (Output.notGetc_signal .receiveOverrun) ?_
    cases hp : s.cfg.overrun with
    | dropNew => rw [deposit_dropNew hr hp]
    | overwrite => rw [deposit_overwrite hr hp]

theorem rxStopByte_shows (l : Level) (s : State) : Shows Output.NotGetc s (rxStopByte l s) := by
  have hf : Shows Output.NotGetc s (setFraming (signal .framingError s)) :=
    .one (Output.notGetc_signal .framingError) (by simp)
  cases l with
  | true => exact deposit_shows _ _
  | false =>
    cases hp : s.cfg.framing with
    | deliver => simpa [rxStopByte, hp] using hf.trans (deposit_shows _ _)
    | discard => simpa [rxStopByte, hp] using hf

/-- A receive firing shows conditions alone (R122, R126, R127). -/
theorem rxTickHandler_shows (ht : rxTickHandler l s = .next t) : Shows Output.NotGetc s t := by
  obtain ⟨-, -, ht⟩ := rxTickHandler_cases ht
  obtain ⟨v, hv⟩ := fire_frame .rx s
  rw [hv] at ht
  obtain ⟨-, -, rfl⟩ | ⟨-, -, harm⟩ | ⟨i, -, rfl⟩ | ⟨-, rfl⟩ := rxBody_cases ht
  · exact .one (Output.notGetc_signal .falseStart) (by simp [disarm])
  · exact .nothing (by simpa using arm_outputs harm)
  · exact .nothing (by simp [rxDataBody])
  · obtain ⟨new, hnew, hP⟩ := rxStopByte_shows l (disarm .rx (setChan .rx v s))
    exact ⟨new, by simpa [rxStopBody, disarm] using hnew, hP⟩

/-! ## The operations -/

theorem clockChan_shows {k : State → Result} (hk : ∀ {s t}, k s = .next t → Shows P s t)
    (ht : clockChan c k s = .next t) : Shows P s t := by
  have hd : Shows P s (countDown c s) := .nothing (by simp [countDown])
  obtain ⟨-, rfl⟩ | ⟨-, -, rfl⟩ | ⟨-, -, ht⟩ := clockChan_cases ht
  · exact .nothing rfl
  · exact hd
  · exact hd.trans (hk ht)

theorem clockEdge_outputs (ht : clockEdge l s = .next t) : t.outputs = s.outputs := by
  obtain ⟨w, rfl, ⟨-, hw⟩ | ⟨-, rfl⟩⟩ := clockEdge_cases ht
  · simpa using edgeHandler_outputs hw
  · rfl

/-- A tick shows what the receive firing it performs does (R180). -/
theorem execClk_shows (ht : execClk l s = .next t) : Shows Output.NotGetc s t := by
  cases hi : s.ctl.initialised with
  | false =>
    cases (execClk_before_init hi).symm.trans ht
    exact .nothing rfl
  | true =>
    obtain ⟨u, v, hu, hv, ht⟩ := execClk_cases hi ht
    have hsu : Shows Output.NotGetc s u :=
      clockChan_shows (fun h => .nothing (txTickHandler_outputs h)) hu
    exact (hsu.trans (clockChan_shows rxTickHandler_shows hv)).trans (.nothing (clockEdge_outputs ht))

/-- A `PUTC` that is turned away shows the condition before its result (R162; log 6). -/
theorem execPutc_shows (ht : execPutc b s = .next t) : Shows Output.NotGetc s t := by
  cases hb : s.mb.transmitBusy with
  | true =>
    rw [execPutc_turnedAway hb ht]
    exact Shows.trans (.one (Output.notGetc_signal .transmitContention) rfl)
      (.one (Output.notGetc_putc false) rfl)
  | false => exact .one (Output.notGetc_putc true) (execPutc_free_outputs hb ht)

/-- No operation but `GETC` shows a `GETC`'s result (R11, R160). -/
theorem exec_shows (hi : i ≠ .getc) (ht : exec i s = .next t) : Shows Output.NotGetc s t := by
  cases i with
  | init =>
    obtain ⟨-, rfl⟩ := execInit_cases ht
    exact .nothing rfl
  | getc => exact absurd rfl hi
  | putc b => exact execPutc_shows ht
  | arm c p => exact .nothing (arm_outputs (onlyInside_eq_next.1 ht).2)
  | disarm c =>
    obtain ⟨-, rfl⟩ := execDisarm_cases ht
    exact .nothing (by simp [disarm])
  | rearm1 c d =>
    obtain ⟨-, rfl⟩ := rearm1_cases (onlyInside_eq_next.1 ht).2
    exact .nothing (by simp)
  | txstart => exact .nothing (txStart_outputs (onlyInside_eq_next.1 ht).2)
  | edge => exact .nothing (edgeHandler_outputs ht)
  | rxtick l => exact rxTickHandler_shows ht
  | txtick => exact .nothing (txTickHandler_outputs ht)
  | clk l => exact execClk_shows ht

/-- What every operation of a sequence keeps holds after the sequence (R68). -/
theorem runOps_keeps {I : State → Prop} {ops : List Instr}
    (hI : ∀ i ∈ ops, ∀ s t, exec i s = .next t → I s → I t) (h : I s)
    (ht : runOps ops s = .next t) : I t := by
  induction ops generalizing s with
  | nil =>
    cases ht
    exact h
  | cons i ops ih =>
    obtain ⟨hi, hrest⟩ := List.forall_mem_cons.1 hI
    obtain ⟨u, hu, ht⟩ := andThen_eq_next.1 ht
    exact ih hrest (hi s u hu h) ht

end Sys2Proof.Machine
end

section
/-! The caller's byte of `uart_getc`: the application stores it, in a step of its own, with the byte the latest `GETC`
returned (R61, R91, R161; log 7). -/

namespace Sys2Proof.Machine

variable {s : State} {rest : List Delivered}

/-- The application's store writes the byte the latest `GETC` returned, if it returned one (R161). -/
theorem step_storesReturned (hin : s.input = .storeByte :: rest) :
    step s = .next
      { s with input := rest, callerByte := (lastGetc s.outputs).getD s.callerByte } := by
  rw [step_storeByte hin, storeReturned]
  cases lastGetc s.outputs <;> rfl

/-- `uart_getc` is delivered as `GETC` with the store still to come (R91). -/
theorem step_uartGetc (hin : s.input = uartGetc ++ rest) :
    step s = execGetc { s with input := .storeByte :: rest } :=
  step_op hin (decode_encode (i := .getc) rfl)

/-- Settles O14: `GETC` shows the byte it returns, the store takes it from there, and no other operation shows a
`GETC`'s result. -/
theorem callerByteWrittenOnSuccess : Obligations.CallerByteWrittenOnSuccess := by
  refine ⟨fun i s t ht => exec_callerByte ht, fun s rest hin => step_storesReturned hin,
    fun s b rest hin hi hready hb => ?_, fun s rest hin hi hempty => ?_,
    fun ops s t hops ht => ?_⟩
  · exact ⟨_, (step_uartGetc hin).trans (execGetc_ready hi hready hb), rfl, rfl,
      step_storesReturned rfl⟩
  · exact ⟨_, (step_uartGetc hin).trans (execGetc_empty hi hempty), rfl, step_storesReturned rfl⟩
  · refine runOps_keeps (I := fun u => lastGetc u.outputs = lastGetc s.outputs)
      (fun i hi u v huv hu => ?_) rfl ht
    exact (exec_shows (hops i hi) huv).lastGetc_eq.trans hu

end Sys2Proof.Machine
end

section
/-! The three situations `PUTC` can meet (R162, R163), and the free byte of a flag set over an empty slot (log 8). -/

namespace Sys2Proof.Machine

variable {s : State}

/-! ## PUTC (R162) -/

/-- A `PUTC` behind a queued byte signals transmit contention and answers `false` (R162, R204). -/
theorem execPutc_busy (hi : s.ctl.initialised = true) (hb : s.mb.transmitBusy = true) (b : Byte) :
    execPutc b s = .next (emit (.putc false) (signal .transmitContention s)) := by
  simp [execPutc, hi, hb]

/-- The word of `PUTC b` has the operation code above the byte (R86, R87). -/
theorem encode_putc (b : Byte) : encode (.putc b) = 0x30000000#32 ||| b.setWidth 32 := by
  have hhigh {n k : Nat} (hn : 8 ≤ n) : (b.setWidth 32).extractLsb' n k = 0#k := by
    ext j
    simp [BitVec.getLsbD_of_ge b (n + _) (Nat.le_add_right_of_le hn)]
  have hlow : (b.setWidth 32).extractLsb' 0 16 = b.setWidth 16 := by
    rw [← BitVec.setWidth_eq_extractLsb' (by decide), BitVec.setWidth_setWidth_of_le _ (by decide)]
  rw [← fields_inj, encode, fields_wordOf]
  simp [fields, fieldsOf, OpKind.opcode, BitVec.extractLsb'_or, hhigh, hlow]

/-- Settles O16: the driver that `PUTC` wakes acts at rest and not during a frame, and I9 and I6 of R37 say that at
rest the slot is free and the channel stopped. -/
theorem putcStartsQueuesOrFails : Obligations.PutcStartsQueuesOrFails := by
  refine ⟨fun s b hi => execPutc_before_init hi b, fun s b hr hidle => ?_,
    fun s b hi hp hfree => ?_, fun s b hi hb => execPutc_busy hi hb b, fun b => ?_⟩
  · obtain ⟨-, hfree, -⟩ := hr.ok.txIdle hidle
    have hstopped : s.tm.tx.armed = false := by simp [hr.ok.txArmed, hidle]
    exact execPutc_free hr.initialised hfree (txStart_acts (by simpa) rfl rfl (by simpa))
  · exact execPutc_free hi hfree (txStart_idle (by simp [hp]))
  · rw [← encode_putc]
    exact decode_encode rfl

/-! ## A flag set over an empty slot (log 8) -/

theorem takeReceived_empty (h : s.mb.receivedByte = none) :
    takeReceived s = { s with
      mb := { s.mb with receivedReady := false }
      outputs := .getc (some (Config.freeByte s.draws)) :: s.outputs, draws := s.draws + 1 } := by
  simp [takeReceived, h, slotByte, noteDraw, emit, setReceivedReady, memWrite]

theorem withdraw_empty (h : s.mb.transmitByte = none) :
    withdraw s = { s with
      tx := { phase := .sendingStart, pendingByte := Config.freeByte s.draws, bitsSent := 0 }
      pin := { s.pin with tx := false }
      mb := { s.mb with transmitBusy := false }
      draws := s.draws + 1 } := by
  simp [withdraw, h, slotByte, noteDraw, setTx, setPinTx, setTransmitBusy, memWrite]

/-- Settles O15: the byte is the next free one. -/
theorem emptySlotWithFlagCompletes : Obligations.EmptySlotWithFlagCompletes := by
  refine ⟨fun s hi hready hempty => ⟨Config.freeByte s.draws, ?_⟩,
    fun s hn hidle hb hempty hstopped => ⟨Config.freeByte s.draws, ?_⟩⟩
  · rw [← takeReceived_empty hempty]
    simp [exec, execGetc, hi, hready]
  · rw [exec_txstart_inside hn, txStart, if_pos ⟨hidle, hb⟩, withdraw_empty hempty]
    exact arm_disarmed (intervalOk_bitPeriod s.cfg) hstopped

end Sys2Proof.Machine
end

section
/-! Without a falling edge no byte appears: what keeps an idle receiver idle (R160, R182). -/

namespace Sys2Proof.Machine

variable {s t : State} {i : Instr}

/-- A running block with an idle receiver and an empty receive slot: a byte can come only through an edge. -/
structure AwaitsEdge (s : State) : Prop where
  running : Running s
  idle : s.rx.phase = .idle
  empty : s.mb.receivedReady = false

theorem AwaitsEdge.of_receiveSide (h : AwaitsEdge s) (hr : Running t) (hs : SameReceiveSide s t) :
    AwaitsEdge t := by
  obtain ⟨-, hready⟩ := hs.slot_eq
  exact ⟨hr, hs.phase_eq.trans h.idle, hready.trans h.empty⟩

/-- The operations that bring no falling edge (S3). -/
def Edgeless (i : Instr) : Prop := i = .getc ∨ i = .txtick ∨ i = .clk true ∨ ∃ b, i = .putc b

theorem AwaitsEdge.after_exec (h : AwaitsEdge s) (hi : Edgeless i) (ht : exec i s = .next t) :
    AwaitsEdge t := by
  have hr := h.running.after_exec ht
  obtain rfl | rfl | rfl | ⟨b, rfl⟩ := hi
  · obtain ⟨hrx, -⟩ := execGetc_frame ht
    obtain ⟨-, hempty⟩ := execGetc_leaves_empty ht
    exact ⟨hr, hrx ▸ h.idle, hempty⟩
  · exact h.of_receiveSide hr (txTickHandler_receiveSide ht)
  · have hstopped : s.tm.rx.armed = false := by simp [h.running.ok.rxArmed, h.idle]
    obtain ⟨-, hready, -⟩ := execClk_rx_stopped_slot hstopped ht
    obtain ⟨hrx, -⟩ := execClk_rx_stopped_quiet hstopped (by simp) ht
    exact ⟨hr, hrx ▸ h.idle, hready.trans h.empty⟩
  · exact h.of_receiveSide hr (execPutc_receiveSide ht)

/-- The output is not a `GETC` answering a byte. -/
def Output.NoByte (o : Output) : Prop := ∀ b, o ≠ .getc (some b)

/-- While the slot is empty no operation returns a byte (R160). -/
theorem exec_shows_noByte (hempty : s.mb.receivedReady = false) (ht : exec i s = .next t) :
    Shows Output.NoByte s t := by
  by_cases hi : i = .getc
  · subst hi
    obtain ⟨-, ⟨hready, -⟩ | ⟨-, rfl⟩⟩ := execGetc_cases ht
    · cases hempty.symm.trans hready
    · exact .one (o := .getc none) (by simp [Output.NoByte]) rfl
  · exact (exec_shows hi ht).mono fun o ho b => ho (some b)

/-- Settles O60: an edgeless operation keeps the receiver idle and the slot empty, and shows no byte. -/
theorem noByteWithoutAnEdge : Obligations.NoByteWithoutAnEdge := by
  intro ops s t hr hidle hempty hops ht
  have hkept : AwaitsEdge t ∧ Shows Output.NoByte s t := by
    refine runOps_keeps (I := fun u => AwaitsEdge u ∧ Shows Output.NoByte s u)
      (fun i hi u v huv hu => ?_) ⟨⟨hr, hidle, hempty⟩, .nothing rfl⟩ ht
    obtain ⟨hwaits, hshown⟩ := hu
    exact ⟨hwaits.after_exec (hops i hi) huv, hshown.trans (exec_shows_noByte hwaits.empty huv)⟩
  obtain ⟨hwaits, new, hnew, hnone⟩ := hkept
  exact ⟨hwaits.idle, hwaits.empty, new, hnew, fun b hb => hnone _ hb b rfl⟩

end Sys2Proof.Machine
end

section
/-! A tick as the operations it performs: the armed channels count down, and a channel that reaches 0 fires (R180). -/

namespace Sys2Proof.Machine

variable {s : State} {c : Chan} {l : Level} {k : State → Result}

/-- The state with channel `c` counted down, if it is armed (R180). -/
def counted (c : Chan) (s : State) : State :=
  setChan c { s.chan c with
    count := if (s.chan c).armed then (s.chan c).count - 1 else (s.chan c).count } s

/-- Channel `c` is armed with one tick to go (R180). -/
def due (c : Chan) (s : State) : Bool := (s.chan c).armed && decide ((s.chan c).count = 1)

theorem due_eq_true_iff : due c s = true ↔ (s.chan c).armed = true ∧ (s.chan c).count = 1 := by
  rw [due, Bool.and_eq_true, decide_eq_true_iff]

/-- A channel that is armed only with more than one tick to go is not due. -/
theorem due_eq_false (h : (s.chan c).armed = true → 1 < (s.chan c).count.toNat) : due c s = false := by
  refine Bool.eq_false_iff.2 fun hd => ?_
  obtain ⟨ha, hc⟩ := due_eq_true_iff.1 hd
  simpa [hc] using h ha

theorem counted_disarmed (h : (s.chan c).armed = false) : counted c s = s := by
  rw [counted, if_neg (by simp [h])]
  exact setChan_chan c s

theorem counted_armed (h : (s.chan c).armed = true) : counted c s = countDown c s := by
  simp [counted, countDown, h]

/-- A channel step of `CLK` counts the channel down, and performs its handler if the channel is due (R180). -/
theorem clockChan_eq (c : Chan) (k : State → Result) (s : State) :
    clockChan c k s = if due c s then k (counted c s) else .next (counted c s) := by
  by_cases hd : due c s = true
  · obtain ⟨ha, hc⟩ := due_eq_true_iff.1 hd
    rw [if_pos hd, counted_armed ha, clockChan_fires ha hc]
  · rw [if_neg hd]
    cases ha : (s.chan c).armed with
    | false => rw [counted_disarmed ha, clockChan_disarmed ha]
    | true =>
      rw [counted_armed ha, clockChan_counts ha fun hc => hd (due_eq_true_iff.2 ⟨ha, hc⟩)]

theorem clockChan_not_due (h : due c s = false) : clockChan c k s = .next (counted c s) := by
  simp [clockChan_eq, h]

theorem clockEdge_no_edge (h : fallingEdge l s = false) : clockEdge l s = .next (setRxPrev l s) := by
  simp [clockEdge, h]

theorem clockEdge_edge (h : fallingEdge l s = true) :
    clockEdge l s = andThen (edgeHandler s) fun s => .next (setRxPrev l s) := by
  simp [clockEdge, h]

/-- Settles O38: no channel is due and no edge is seen. -/
theorem quietTickCountsDown : Obligations.QuietTickCountsDown := by
  refine ⟨fun s l hi => execClk_before_init hi, fun s l hi htx hrx hq => ?_⟩
  have htx : due .tx s = false := due_eq_false htx
  have hrx : due .rx (counted .tx s) = false := due_eq_false hrx
  have hq : fallingEdge l (counted .rx (counted .tx s)) = false := by
    simpa [fallingEdge, counted] using hq
  change execClk l s = _
  rw [execClk_running hi, clockChan_not_due htx, andThen_next, clockChan_not_due hrx, andThen_next,
    clockEdge_no_edge hq]
  rfl

end Sys2Proof.Machine
end

section
/-! The two sides of a tick: the transmit operations neither read nor write the receive side, the receive operations
neither read nor write the transmit side, so a tick is a tick of each (R29, R40, R180, R181). -/

namespace Sys2Proof.Machine

variable {s r t u v w : State} {c : Chan} {p : Nat} {l : Level} {line : Nat → Level} {n : Nat}
  {k k' : State → Result}

/-- The state `r` with the transmit side of `s`: the driver, its channel, its slot and the output pin, and the count of
the free bytes, which a frame's start alone draws (log 8). -/
def withTransmitter (s r : State) : State := { r with
  tx := s.tx
  mb := { r.mb with transmitByte := s.mb.transmitByte, transmitBusy := s.mb.transmitBusy }
  tm := { r.tm with tx := s.tm.tx }
  pin := { r.pin with tx := s.pin.tx }
  draws := s.draws }

theorem withTransmitter_self (s : State) : withTransmitter s s = s := rfl

/-- An operation of the receive side alone: it answers the same whatever the transmit side is, which it leaves. -/
def ReceiveOnly (k : State → Result) : Prop :=
  ∀ s r, k (withTransmitter s r) = andThen (k r) fun v => .next (withTransmitter s v)

/-- An operation of the transmit side alone: with the same parameters and control bits it answers the same whatever
the rest of the state is, which it leaves. -/
def TransmitOnly (k : State → Result) : Prop :=
  ∀ s r, r.cfg = s.cfg → r.ctl = s.ctl →
    k (withTransmitter s r) = andThen (k s) fun u => .next (withTransmitter u r)

/-! ## The receive operations -/

theorem ReceiveOnly.bind (h : ReceiveOnly k) (h' : ReceiveOnly k') :
    ReceiveOnly fun s => andThen (k s) k' := by
  intro s r
  dsimp only
  rw [h s r]
  cases k r with
  | next v => exact h' s v
  | fault f => cases f
  | refused e => rfl

theorem fire_rx_withTransmitter (s r : State) :
    fire .rx (withTransmitter s r) = withTransmitter s (fire .rx r) := by
  cases ho : r.tm.rx.oneShot with
  | true => rw [fire_oneShot (by exact ho), fire_oneShot (by exact ho)]; rfl
  | false => rw [fire_periodic (by exact ho), fire_periodic (by exact ho)]; rfl

theorem arm_rx_receiveOnly (p : Nat) : ReceiveOnly (arm .rx p) := by
  intro s r
  cases hp : intervalOk p with
  | false => rw [arm_bad hp, arm_bad hp]; rfl
  | true =>
    cases ha : r.tm.rx.armed with
    | true => rw [arm_armed hp (by exact ha), arm_armed hp (by exact ha)]; rfl
    | false => rw [arm_disarmed hp (by exact ha), arm_disarmed hp (by exact ha)]; rfl

theorem deposit_withTransmitter (b : Byte) (s r : State) :
    deposit b (withTransmitter s r) = withTransmitter s (deposit b r) := by
  cases h : r.mb.receivedReady with
  | false => rw [deposit_empty h, deposit_empty (by exact h)]; rfl
  | true =>
    cases hp : r.cfg.overrun with
    | dropNew => rw [deposit_dropNew h hp, deposit_dropNew (by exact h) (by exact hp)]; rfl
    | overwrite => rw [deposit_overwrite h hp, deposit_overwrite (by exact h) (by exact hp)]; rfl

theorem rxStopBody_withTransmitter (l : Level) (s r : State) :
    rxStopBody l (withTransmitter s r) = withTransmitter s (rxStopBody l r) := by
  cases l with
  | true => rw [rxStopBody_high, rxStopBody_high]; exact deposit_withTransmitter r.rx.shiftRegister s (frameEnded r)
  | false =>
    cases hf : r.cfg.framing with
    | discard => rw [rxStopBody_low_discard hf, rxStopBody_low_discard (by exact hf)]; rfl
    | deliver =>
      rw [rxStopBody_low_deliver hf, rxStopBody_low_deliver (by exact hf)]
      exact deposit_withTransmitter _ s (framingRecorded (frameEnded r))

theorem rxBody_receiveOnly (l : Level) : ReceiveOnly (rxBody l) := by
  intro s r
  have hrx : (withTransmitter s r).rx = r.rx := rfl
  cases hp : r.rx.phase with
  | idle => simp [rxBody, hrx, hp]
  | startDetected =>
    cases l with
    | true => simp only [rxBody, hrx, hp]; rfl
    | false =>
      simp only [rxBody, hrx, hp]
      exact arm_rx_receiveOnly r.cfg.bitPeriod s (setRx { r.rx with phase := .samplingBit 0 } r)
  | samplingBit i => simp only [rxBody, hrx, hp]; rfl
  | stopExpected => simp only [rxBody, hrx, hp, rxStopBody_withTransmitter]; rfl

theorem rxTickHandler_receiveOnly (l : Level) : ReceiveOnly (rxTickHandler l) := by
  intro s r
  have hctl : (withTransmitter s r).ctl = r.ctl := rfl
  have hrx : (withTransmitter s r).tm.rx = r.tm.rx := rfl
  simp only [rxTickHandler, hctl, hrx, fire_rx_withTransmitter]
  split
  · split
    · exact rxBody_receiveOnly l s (fire .rx r)
    · rfl
  · rfl

theorem edgeHandler_receiveOnly : ReceiveOnly edgeHandler := by
  intro s r
  cases he : edgeEnable r with
  | true => rw [edgeHandler_enabled he, edgeHandler_enabled (by exact he)]; rfl
  | false => rw [edgeHandler_disabled he, edgeHandler_disabled (by exact he)]; rfl

theorem clockChan_rx_receiveOnly (hk : ReceiveOnly k) : ReceiveOnly (clockChan .rx k) := by
  intro s r
  have hdue : due .rx (withTransmitter s r) = due .rx r := rfl
  have hcounted : counted .rx (withTransmitter s r) = withTransmitter s (counted .rx r) := rfl
  rw [clockChan_eq, clockChan_eq, hdue, hcounted]
  split
  · exact hk s (counted .rx r)
  · rfl

theorem clockEdge_receiveOnly (l : Level) : ReceiveOnly (clockEdge l) := by
  have hprev : ReceiveOnly fun s => .next (setRxPrev l s) := fun _ _ => rfl
  intro s r
  cases hf : fallingEdge l r with
  | true =>
    rw [clockEdge_edge hf, clockEdge_edge (by exact hf)]
    exact edgeHandler_receiveOnly.bind hprev s r
  | false => rw [clockEdge_no_edge hf, clockEdge_no_edge (by exact hf)]; rfl

/-! ## The transmit operations -/

theorem fire_tx_withTransmitter (s r : State) :
    fire .tx (withTransmitter s r) = withTransmitter (fire .tx s) r := by
  cases ho : s.tm.tx.oneShot with
  | true => rw [fire_oneShot (by exact ho), fire_oneShot (by exact ho)]; rfl
  | false => rw [fire_periodic (by exact ho), fire_periodic (by exact ho)]; rfl

theorem arm_tx_transmitOnly (p : Nat) : TransmitOnly (arm .tx p) := by
  intro s r _ _
  cases hp : intervalOk p with
  | false => rw [arm_bad hp, arm_bad hp]; rfl
  | true =>
    cases ha : s.tm.tx.armed with
    | true => rw [arm_armed hp (by exact ha), arm_armed hp (by exact ha)]; rfl
    | false => rw [arm_disarmed hp (by exact ha), arm_disarmed hp (by exact ha)]; rfl

theorem withdraw_withTransmitter (s r : State) :
    withdraw (withTransmitter s r) = withTransmitter (withdraw s) r := by
  cases hb : s.mb.transmitByte with
  | none => rw [withdraw_empty hb, withdraw_empty (by exact hb)]; rfl
  | some b => rw [withdraw_byte hb, withdraw_byte (by exact hb)]; rfl

theorem txStart_transmitOnly : TransmitOnly txStart := by
  intro s r hcfg hctl
  by_cases hq : s.tx.phase = .idle ∧ s.mb.transmitBusy = true
  · rw [txStart, txStart, if_pos hq, if_pos (by exact hq), withdraw_withTransmitter]
    have hperiod : (withTransmitter s r).cfg.bitPeriod = s.cfg.bitPeriod := congrArg _ hcfg
    rw [hperiod]
    exact arm_tx_transmitOnly _ (withdraw s) r (by simpa [withdraw]) (by simpa [withdraw])
  · rw [txStart_idle hq, txStart_idle (by exact hq)]; rfl

theorem txDataBitEnd_withTransmitter (i : Fin 8) (s r : State) :
    txDataBitEnd i (withTransmitter s r) = withTransmitter (txDataBitEnd i s) r := by
  unfold txDataBitEnd
  split <;> rfl

theorem txBody_transmitOnly : TransmitOnly txBody := by
  intro s r hcfg hctl
  have htx : (withTransmitter s r).tx = s.tx := rfl
  cases hp : s.tx.phase with
  | idle => simp [txBody, htx, hp]
  | sendingStart => simp only [txBody, htx, hp]; rfl
  | sendingBit i => simp only [txBody, htx, hp, txDataBitEnd_withTransmitter]; rfl
  | sendingStop =>
    simp only [txBody, htx, hp]
    exact txStart_transmitOnly
      (setTx { phase := .idle, pendingByte := 0, bitsSent := 0 } (disarm .tx s)) r hcfg hctl

theorem txTickHandler_transmitOnly : TransmitOnly txTickHandler := by
  intro s r hcfg hctl
  have hctl' : (withTransmitter s r).ctl = s.ctl := hctl
  have htx : (withTransmitter s r).tm.tx = s.tm.tx := rfl
  obtain ⟨hfcfg, hfctl, -⟩ := fire_setting .tx s
  simp only [txTickHandler, hctl', htx, fire_tx_withTransmitter]
  split
  · split
    · exact txBody_transmitOnly (fire .tx s) r (hcfg.trans hfcfg.symm) (hctl.trans hfctl.symm)
    · rfl
  · rfl

theorem clockChan_tx_transmitOnly (hk : TransmitOnly k) : TransmitOnly (clockChan .tx k) := by
  intro s r hcfg hctl
  have hdue : due .tx (withTransmitter s r) = due .tx s := rfl
  have hcounted : counted .tx (withTransmitter s r) = withTransmitter (counted .tx s) r := rfl
  rw [clockChan_eq, clockChan_eq, hdue, hcounted]
  split
  · exact hk (counted .tx s) r hcfg hctl
  · rfl

/-! ## Completed operations -/

theorem ReceiveOnly.of_next (hk : ReceiveOnly k) (hv : k r = .next v) (s : State) :
    k (withTransmitter s r) = .next (withTransmitter s v) := by rw [hk s r, hv, andThen_next]

theorem TransmitOnly.of_next (hk : TransmitOnly k) (hu : k s = .next u) (hcfg : r.cfg = s.cfg)
    (hctl : r.ctl = s.ctl) : k (withTransmitter s r) = .next (withTransmitter u r) := by
  rw [hk s r hcfg hctl, hu, andThen_next]

/-- What a receive operation leaves has the transmit side it found. -/
theorem ReceiveOnly.next_eq (hk : ReceiveOnly k) (hv : k s = .next v) : v = withTransmitter s v := by
  have h := hk.of_next hv s
  rw [withTransmitter_self, hv] at h
  exact Host.Outcome.next.inj h

/-- What a transmit operation leaves differs from what it found in the transmit side alone. -/
theorem TransmitOnly.next_eq (hk : TransmitOnly k) (hu : k s = .next u) : u = withTransmitter u s := by
  have h := hk.of_next hu (r := s) rfl rfl
  rw [withTransmitter_self, hu] at h
  exact Host.Outcome.next.inj h

end Sys2Proof.Machine
end

section
/-! One tick: the operations it performs, in either order (R180, R181, R217). -/

namespace Sys2Proof.Machine

variable {s r t u w : State} {l : Level}

/-! ## The operations of a tick, as sequences -/

@[simp] theorem andThen_done (x : Result) : andThen x .next = x := by
  cases x <;> rfl

theorem runOps_single (i : Instr) (s : State) : runOps [i] s = exec i s := andThen_done _

/-- The transmit firing of a tick in `s`, if there is one (R180). -/
def txDue (s : State) : List Instr := if due .tx s then [.txtick] else []

/-- The receive firing of a tick in `s` with the pin at `l`, if there is one (R180). -/
def rxDue (l : Level) (s : State) : List Instr := if due .rx s then [.rxtick l] else []

/-- The edge of a tick in `s` with the pin at `l`, if there is one (R182). -/
def edgeSeen (l : Level) (s : State) : List Instr := if fallingEdge l s then [.edge] else []

theorem clockChan_tx_eq_runOps (s : State) :
    clockChan .tx txTickHandler s = runOps (txDue s) (counted .tx s) := by
  rw [clockChan_eq, txDue]
  split
  · exact (runOps_single .txtick _).symm
  · rfl

theorem clockChan_rx_eq_runOps (l : Level) (s : State) :
    clockChan .rx (rxTickHandler l) s = runOps (rxDue l s) (counted .rx s) := by
  rw [clockChan_eq, rxDue]
  split
  · exact (runOps_single (.rxtick l) _).symm
  · rfl

/-- The edge of a tick is told by the remembered level alone (R182). -/
theorem edgeSeen_congr (h : t.pin.rxPrev = s.pin.rxPrev) (l : Level) : edgeSeen l t = edgeSeen l s := by
  simp [edgeSeen, fallingEdge, h]

/-- The edge step of a tick performs the edge, which leaves the remembered level, and then remembers the new one (R32,
R182). -/
theorem clockEdge_eq_next (h : clockEdge l s = .next t) :
    ∃ w, runOps (edgeSeen l s) s = .next w ∧ w.pin.rxPrev = s.pin.rxPrev ∧ t = setRxPrev l w := by
  obtain ⟨w, rfl, ⟨hf, hw⟩ | ⟨hf, rfl⟩⟩ := clockEdge_cases h
  · obtain ⟨-, -, -, -, -, hprev⟩ := edgeHandler_setting hw
    refine ⟨w, ?_, hprev, rfl⟩
    rw [edgeSeen, if_pos hf, runOps_single]
    exact hw
  · exact ⟨w, by simp [edgeSeen, hf, runOps_nil], rfl, rfl⟩

theorem exec_edge_receiveOnly : ReceiveOnly (exec .edge) := edgeHandler_receiveOnly

theorem exec_rxtick_receiveOnly (l : Level) : ReceiveOnly (exec (.rxtick l)) :=
  rxTickHandler_receiveOnly l

theorem exec_txtick_transmitOnly : TransmitOnly (exec .txtick) := txTickHandler_transmitOnly

theorem rxDue_receiveOnly (l : Level) (s : State) : ReceiveOnly (runOps (rxDue l s)) := by
  unfold rxDue
  split
  · simpa only [ReceiveOnly, runOps_single] using exec_rxtick_receiveOnly l
  · exact fun _ _ => rfl

theorem edgeSeen_receiveOnly (l : Level) (s : State) : ReceiveOnly (runOps (edgeSeen l s)) := by
  unfold edgeSeen
  split
  · simpa only [ReceiveOnly, runOps_single] using exec_edge_receiveOnly
  · exact fun _ _ => rfl

theorem txDue_transmitOnly (s : State) : TransmitOnly (runOps (txDue s)) := by
  unfold txDue
  split
  · simpa only [TransmitOnly, runOps_single] using exec_txtick_transmitOnly
  · exact fun _ _ _ _ => rfl

/-! ## The two sides of a tick -/

/-- The transmit part of a tick (R180, step 1). -/
def transmitTick (s : State) : Result := clockChan .tx txTickHandler s

/-- The receive part of a tick with the input pin at `l` (R180, steps 2 and 3). -/
def receiveTick (l : Level) (s : State) : Result :=
  andThen (clockChan .rx (rxTickHandler l) s) (clockEdge l)

theorem execClk_eq (hi : s.ctl.initialised = true) (l : Level) :
    execClk l s = andThen (transmitTick s) (receiveTick l) := execClk_running hi

theorem transmitTick_transmitOnly : TransmitOnly transmitTick :=
  clockChan_tx_transmitOnly txTickHandler_transmitOnly

theorem receiveTick_receiveOnly (l : Level) : ReceiveOnly (receiveTick l) :=
  (clockChan_rx_receiveOnly (rxTickHandler_receiveOnly l)).bind (clockEdge_receiveOnly l)

/-- A tick is a tick of each side (R181, R217). -/
theorem execClk_withTransmitter (hi : r.ctl.initialised = true) (hcfg : r.cfg = s.cfg)
    (hctl : r.ctl = s.ctl) (hu : transmitTick s = .next u) (hw : receiveTick l r = .next w) :
    execClk l (withTransmitter s r) = .next (withTransmitter u w) := by
  rw [execClk_eq (by exact hi), transmitTick_transmitOnly.of_next hu hcfg hctl, andThen_next,
    (receiveTick_receiveOnly l).of_next hw]

theorem Running.transmitTick_completes (hr : Running s) : ∃ u, transmitTick s = .next u :=
  clockChan_completes (txTickHandler_countDown s) hr.txTickHandler_completes

theorem Running.after_transmitTick (hr : Running s) (hu : transmitTick s = .next u) : Running u :=
  hr.after_clockChan (txTickHandler_countDown s) (fun _ => hr.after_txTickHandler) hu

theorem Running.clockChan_rx_completes (hr : Running s) (l : Level) :
    ∃ v, clockChan .rx (rxTickHandler l) s = .next v :=
  clockChan_completes (rxTickHandler_countDown l s) fun ha => hr.rxTickHandler_completes ha l

theorem Running.receiveTick_completes (hr : Running s) (l : Level) : ∃ w, receiveTick l s = .next w := by
  obtain ⟨v, hv⟩ := hr.clockChan_rx_completes l
  obtain ⟨w, hw⟩ := clockEdge_completes l v
  exact ⟨w, by rw [receiveTick, hv, andThen_next, hw]⟩

theorem Running.after_receiveTick (hr : Running s) (hw : receiveTick l s = .next w) : Running w := by
  obtain ⟨v, hv, hw⟩ := andThen_eq_next.1 hw
  have hrv : Running v :=
    hr.after_clockChan (rxTickHandler_countDown l s) (fun _ => hr.after_rxTickHandler) hv
  obtain ⟨x, rfl, ⟨-, hx⟩ | ⟨-, rfl⟩⟩ := clockEdge_cases hw
  · exact (hrv.after_edgeHandler hx).after_setRxPrev l
  · exact hrv.after_setRxPrev l

/-- Neither part of a tick writes the parameters or the control bits (R7, R34). -/
theorem transmitTick_setting (hu : transmitTick s = .next u) : u.cfg = s.cfg ∧ u.ctl = s.ctl := by
  obtain ⟨hcfg, hctl, -⟩ := clockChan_setting txTickHandler_setting hu
  exact ⟨hcfg, hctl⟩

theorem receiveTick_setting (hw : receiveTick l s = .next w) : w.cfg = s.cfg ∧ w.ctl = s.ctl := by
  obtain ⟨v, hv, hw⟩ := andThen_eq_next.1 hw
  obtain ⟨hcfg, hctl, -⟩ := clockChan_setting rxTickHandler_setting hv
  obtain ⟨x, rfl, ⟨-, hx⟩ | ⟨-, rfl⟩⟩ := clockEdge_cases hw
  · obtain ⟨hxcfg, hxctl, -⟩ := edgeHandler_setting hx
    exact ⟨hxcfg.trans hcfg, hxctl.trans hctl⟩
  · exact ⟨hcfg, hctl⟩

/-- A tick of a running block is, for everything but the transmit side, its receive part (R181). -/
theorem Running.execClk_receiver (hr : Running s) (ht : execClk l s = .next t) :
    ∃ u w, transmitTick s = .next u ∧ receiveTick l s = .next w ∧ t = withTransmitter u w := by
  obtain ⟨u, hu⟩ := hr.transmitTick_completes
  obtain ⟨w, hw⟩ := hr.receiveTick_completes l
  have h := execClk_withTransmitter hr.initialised rfl rfl hu hw
  rw [withTransmitter_self, ht] at h
  exact ⟨u, w, hu, hw, Host.Outcome.next.inj h⟩

/-! ## The order of the operations (R180, R181) -/

/-- Settles O42: each firing leaves the other side as it was, so either order puts the two results together. -/
theorem firingsCommute : Obligations.FiringsCommute := by
  intro s l hr hrx htx
  obtain ⟨u, hu⟩ : ∃ u, exec .txtick s = .next u := hr.txTickHandler_completes htx
  obtain ⟨v, hv⟩ : ∃ v, exec (.rxtick l) s = .next v := hr.rxTickHandler_completes hrx l
  obtain ⟨hcfg, hctl, -⟩ := rxTickHandler_setting hv
  rw [runOps_cons_of_next hu, runOps_cons_of_next hv, runOps_single, runOps_single,
    exec_txtick_transmitOnly.next_eq hu, (exec_rxtick_receiveOnly l).next_eq hv,
    (exec_rxtick_receiveOnly l).of_next hv, exec_txtick_transmitOnly.of_next hu hcfg hctl]

/-- Settles O39: the firing of one channel does not see that the other has been counted. -/
theorem tickPerformsTheOperationsInOrder : Obligations.TickPerformsTheOperationsInOrder := by
  refine ⟨fun s l hi => execClk_before_init hi, fun l => ?_, fun s l hr => ?_⟩
  · rw [encode, fields_wordOf]
    exact ⟨rfl, rfl⟩
  · obtain ⟨u, hu⟩ := hr.transmitTick_completes
    obtain ⟨v, hv⟩ := hr.clockChan_rx_completes l
    have hvprev : v.pin.rxPrev = s.pin.rxPrev := by
      obtain ⟨-, -, -, -, -, hprev⟩ := clockChan_setting rxTickHandler_setting hv
      exact hprev
    obtain ⟨x, hx⟩ := clockEdge_completes l v
    obtain ⟨w, hw, hwprev, rfl⟩ := clockEdge_eq_next hx
    rw [edgeSeen_congr hvprev] at hw
    have hback : setRxPrev s.pin.rxPrev (withTransmitter u (setRxPrev l w)) = withTransmitter u w := by
      rw [← hvprev, ← hwprev]
      rfl
    have hall : runOps (txDue s ++ rxDue l s ++ edgeSeen l s) (counted .rx (counted .tx s)) =
        .next (withTransmitter u w) := by
      rw [transmitTick, clockChan_tx_eq_runOps] at hu
      rw [clockChan_rx_eq_runOps] at hv
      have htx : runOps (txDue s) (counted .rx (counted .tx s)) = _ :=
        (txDue_transmitOnly s).of_next hu (r := counted .rx s) rfl rfl
      rw [runOps_append, runOps_append, htx, andThen_next, (rxDue_receiveOnly l s).of_next hv,
        andThen_next, (edgeSeen_receiveOnly l s).of_next hw]
    refine ⟨withTransmitter u (setRxPrev l w), ?_, ?_, rfl⟩
    · refine execClk_withTransmitter hr.initialised rfl rfl hu ?_
      rw [receiveTick, hv, andThen_next, hx]
    · exact hall.trans (congrArg _ hback.symm)

end Sys2Proof.Machine
end

section
/-! The edge detector in a running block (R181, R182). -/

namespace Sys2Proof.Machine

variable {s t v w : State} {l : Level}

/-- A channel with one tick to go performs its firing, which does not see the count (R106, R180). -/
theorem clockChan_rx_due (ha : s.tm.rx.armed = true) (hc : s.tm.rx.count = 1) (l : Level) :
    clockChan .rx (rxTickHandler l) s = rxTickHandler l s := by
  rw [clockChan_fires (by exact ha) (by exact hc), rxTickHandler_countDown]

theorem clockChan_tx_due (ha : s.tm.tx.armed = true) (hc : s.tm.tx.count = 1) :
    clockChan .tx txTickHandler s = txTickHandler s := by
  rw [clockChan_fires (by exact ha) (by exact hc), txTickHandler_countDown]

theorem fallingEdge_eq_true_iff : fallingEdge l s = true ↔ s.pin.rxPrev = true ∧ l = false := by
  simp [fallingEdge]

/-- The state after an edge that starts a reception: `StartDetected`, with one firing `HALFBIT` ticks away (R120). -/
def receptionBegun (s : State) : State := { s with
  rx := { phase := .startDetected, shiftRegister := 0, bitsReceived := 0 }
  tm := { s.tm with rx := { armed := true, oneShot := true, count := ticksOf s.cfg.halfBit,
                            period := s.tm.rx.period } } }

/-- On a falling edge an idle receiver begins a reception (R120, R182). -/
theorem Running.clockEdge_begins (hr : Running s) (hp : s.rx.phase = .idle)
    (hprev : s.pin.rxPrev = true) :
    clockEdge false s = .next (setRxPrev false (receptionBegun s)) := by
  have hedge : edgeHandler s = .next (receptionBegun s) := hr.exec_edge_idle hp
  rw [clockEdge_edge (fallingEdge_eq_true_iff.2 ⟨hprev, rfl⟩), hedge, andThen_next]

/-- With an idle receiver the receive part of a tick is its edge step (R37 I5, R180). -/
theorem Running.receiveTick_idle (hr : Running s) (hp : s.rx.phase = .idle) (l : Level) :
    receiveTick l s = clockEdge l s := by
  have ha : (s.chan .rx).armed = false := by simp [hr.ok.rxArmed, hp]
  rw [receiveTick, clockChan_disarmed ha, andThen_next]

/-- The edge step of a tick remembers its level (R182). -/
theorem receiveTick_rxPrev (hw : receiveTick l s = .next w) : w.pin.rxPrev = l := by
  obtain ⟨v, -, hw⟩ := andThen_eq_next.1 hw
  obtain ⟨x, rfl, -⟩ := clockEdge_cases hw
  rfl

/-- A tick moves an idle receiver exactly on a falling edge, to `StartDetected` (R182). -/
theorem Running.execClk_idle (hr : Running s) (hp : s.rx.phase = .idle) (ht : execClk l s = .next t) :
    (t.rx.phase = .startDetected ↔ s.pin.rxPrev = true ∧ l = false) ∧
      (t.rx.phase ≠ .startDetected → t.rx = s.rx) := by
  obtain ⟨u, w, -, hw, rfl⟩ := hr.execClk_receiver ht
  rw [hr.receiveTick_idle hp] at hw
  by_cases hf : s.pin.rxPrev = true ∧ l = false
  · obtain ⟨hprev, rfl⟩ := hf
    cases (hr.clockEdge_begins hp hprev).symm.trans hw
    simp [withTransmitter, receptionBegun, hprev]
  · have hquiet : fallingEdge l s = false := by rwa [← fallingEdge_eq_true_iff, Bool.not_eq_true] at hf
    cases (clockEdge_no_edge hquiet).symm.trans hw
    simp [withTransmitter, hp, hf]

/-- Settles O40: the edge step tells a falling edge by the level remembered, which `INIT` makes low. -/
theorem edgeDetector : Obligations.EdgeDetector := by
  refine ⟨fun s t l hr ht => ?_, fun s t l hr hp ht => hr.execClk_idle hp ht,
    fun s t u hpow ht hu => ?_⟩
  · obtain ⟨u, w, -, hw, rfl⟩ := hr.execClk_receiver ht
    exact (receiveTick_rxPrev hw :)
  · obtain ⟨-, rfl⟩ := execInit_cases ht
    obtain ⟨hstarts, hstays⟩ := hpow.initialise_running.execClk_idle rfl hu
    rw [hstays fun h => by simpa [initialise] using hstarts.1 h]
    rfl

/-- The receive channel in mid-frame reloads the bit period (R37 I7, R108). -/
theorem Running.rxPeriod (hr : Running s) (hi : s.rx.phase ≠ .idle) (hs : s.rx.phase ≠ .startDetected) :
    s.tm.rx.period = ticksOf s.cfg.bitPeriod :=
  hr.ok.rxChannel.periodArmed (by simp [hr.ok.rxArmed, hi]) (by simp [hr.ok.rxOneShot, hs])

/-- Settles O41: the stop sample leaves an idle receiver to the edge step of its tick. -/
theorem stopSampleAndEdgeInOneTick : Obligations.StopSampleAndEdgeInOneTick := by
  intro s hr hp hc hprev
  have hstop : rxTickHandler false s = .next (rxStopBody false s) := hr.exec_rxtick_stop hp false
  have hrv := hr.after_rxTickHandler hstop
  obtain ⟨hcfg, -, -, -, -, hvprev⟩ := rxStopBody_setting false s
  have hw : receiveTick false s = .next (setRxPrev false (receptionBegun (rxStopBody false s))) := by
    rw [receiveTick, clockChan_rx_due (by simp [hr.ok.rxArmed, hp]) hc, hstop, andThen_next,
      hrv.clockEdge_begins rfl (hvprev.trans hprev)]
  obtain ⟨u, hu⟩ := hr.transmitTick_completes
  refine ⟨_, execClk_withTransmitter hr.initialised rfl rfl hu hw, rfl, ?_, rfl, rfl, rfl, ?_⟩
  · obtain ⟨full, -, herr⟩ := rxStopByte_err false (disarm .rx s)
    have herr : (rxStopBody false s).err = _ := herr
    simp [withTransmitter, receptionBegun, herr]
  · have hperiod : (rxStopBody false s).tm.rx.period = ticksOf s.cfg.bitPeriod := by
      simpa [rxStopBody, disarm] using hr.rxPeriod (by simp [hp]) (by simp [hp])
    simp [withTransmitter, receptionBegun, hcfg, hperiod]

end Sys2Proof.Machine
end

section
/-! Sequences of ticks: each side goes through its own ticks, whatever the other does, and an armed channel counts down
to its firing (R180, R183, R217). -/

namespace Sys2Proof.Machine

variable {s r t u w : State} {c : Chan} {l : Level} {line : Nat → Level} {m n : Nat}

/-! ## The two sides of a sequence of ticks -/

/-- The transmit part of `n` ticks. -/
def transmitTicks : Nat → State → Result
  | 0, s => .next s
  | n + 1, s => andThen (transmitTick s) (transmitTicks n)

/-- The receive part of `n` ticks with the input pin at `line 0`, `line 1`, … -/
def receiveTicks (line : Nat → Level) : Nat → State → Result
  | 0, s => .next s
  | n + 1, s => andThen (receiveTick (line 0) s) (receiveTicks (fun k => line (k + 1)) n)

theorem transmitTicks_succ (n : Nat) (s : State) :
    transmitTicks (n + 1) s = andThen (transmitTick s) (transmitTicks n) := rfl

theorem receiveTicks_succ (line : Nat → Level) (n : Nat) (s : State) :
    receiveTicks line (n + 1) s =
      andThen (receiveTick (line 0) s) (receiveTicks (fun k => line (k + 1)) n) := rfl

theorem ticks_succ (line : Nat → Level) (n : Nat) (s : State) :
    ticks line (n + 1) s = andThen (execClk (line 0) s) (ticks (fun k => line (k + 1)) n) := rfl

theorem andThen_assoc (x : Result) (k k' : State → Result) :
    andThen (andThen x k) k' = andThen x fun u => andThen (k u) k' := by
  cases x <;> rfl

theorem transmitTicks_add (m n : Nat) (s : State) :
    transmitTicks (m + n) s = andThen (transmitTicks m s) (transmitTicks n) := by
  induction m generalizing s with
  | zero => rw [Nat.zero_add]; rfl
  | succ m ih =>
    rw [Nat.succ_add, transmitTicks_succ, transmitTicks_succ, andThen_assoc]
    exact congrArg _ (funext ih)

theorem receiveTicks_add (line : Nat → Level) (m n : Nat) (s : State) :
    receiveTicks line (m + n) s =
      andThen (receiveTicks line m s) (receiveTicks (fun k => line (m + k)) n) := by
  induction m generalizing line s with
  | zero => simp only [Nat.zero_add]; rfl
  | succ m ih =>
    rw [Nat.succ_add, receiveTicks_succ, receiveTicks_succ, andThen_assoc]
    refine congrArg _ (funext fun u => (ih _ u).trans ?_)
    simp only [Nat.succ_add]

theorem ticks_add (line : Nat → Level) (m n : Nat) (s : State) :
    ticks line (m + n) s = andThen (ticks line m s) (ticks (fun k => line (m + k)) n) := by
  induction m generalizing line s with
  | zero => simp only [Nat.zero_add]; rfl
  | succ m ih =>
    rw [Nat.succ_add, ticks_succ, ticks_succ, andThen_assoc]
    refine congrArg _ (funext fun u => (ih _ u).trans ?_)
    simp only [Nat.succ_add]

theorem transmitTicks_one (s : State) : transmitTicks 1 s = transmitTick s := andThen_done _

theorem receiveTicks_one (line : Nat → Level) (s : State) :
    receiveTicks line 1 s = receiveTick (line 0) s := andThen_done _

/-- `n` ticks are `n` ticks of each side. -/
theorem ticks_withTransmitter (hi : r.ctl.initialised = true) (hcfg : r.cfg = s.cfg)
    (hctl : r.ctl = s.ctl) (hu : transmitTicks n s = .next u) (hw : receiveTicks line n r = .next w) :
    ticks line n (withTransmitter s r) = .next (withTransmitter u w) := by
  induction n generalizing line s r with
  | zero =>
    cases hu
    cases hw
    rfl
  | succ n ih =>
    obtain ⟨s', hs, hu⟩ := andThen_eq_next.1 hu
    obtain ⟨r', hr, hw⟩ := andThen_eq_next.1 hw
    obtain ⟨hscfg, hsctl⟩ := transmitTick_setting hs
    obtain ⟨hrcfg, hrctl⟩ := receiveTick_setting hr
    rw [ticks_succ, execClk_withTransmitter hi hcfg hctl hs hr, andThen_next]
    exact ih (by rw [hrctl]; exact hi) (by rw [hrcfg, hscfg, hcfg]) (by rw [hrctl, hsctl, hctl]) hu hw

theorem Running.ticks_eq (hr : Running s) (hu : transmitTicks n s = .next u)
    (hw : receiveTicks line n s = .next w) : ticks line n s = .next (withTransmitter u w) :=
  ticks_withTransmitter hr.initialised rfl rfl hu hw

theorem Running.transmitTicks_completes (hr : Running s) (n : Nat) :
    ∃ u, transmitTicks n s = .next u := by
  induction n generalizing s with
  | zero => exact ⟨s, rfl⟩
  | succ n ih =>
    obtain ⟨t, ht⟩ := hr.transmitTick_completes
    rw [transmitTicks_succ, ht]
    exact ih (hr.after_transmitTick ht)

theorem Running.receiveTicks_completes (hr : Running s) (line : Nat → Level) (n : Nat) :
    ∃ w, receiveTicks line n s = .next w := by
  induction n generalizing s line with
  | zero => exact ⟨s, rfl⟩
  | succ n ih =>
    obtain ⟨t, ht⟩ := hr.receiveTick_completes (line 0)
    rw [receiveTicks_succ, ht]
    exact ih (hr.after_receiveTick ht) _

/-- What the transmit part of `n` ticks leaves is the transmit side after the `n` ticks, whatever the line does. -/
theorem Running.ticks_transmitter (hr : Running s) (hu : transmitTicks n s = .next u)
    (line : Nat → Level) : ∃ w, ticks line n s = .next (withTransmitter u w) := by
  obtain ⟨w, hw⟩ := hr.receiveTicks_completes line n
  exact ⟨w, hr.ticks_eq hu hw⟩

/-- What the receive part of `n` ticks leaves is the rest after the `n` ticks, whatever the driver does. -/
theorem Running.ticks_receiver (hr : Running s) (hw : receiveTicks line n s = .next w) :
    ∃ u, ticks line n s = .next (withTransmitter u w) := by
  obtain ⟨u, hu⟩ := hr.transmitTicks_completes n
  exact ⟨u, hr.ticks_eq hu hw⟩

theorem Running.after_ticks (hr : Running s) (ht : ticks line n s = .next t) : Running t := by
  induction n generalizing line s with
  | zero =>
    cases ht
    exact hr
  | succ n ih =>
    obtain ⟨u, hu, ht⟩ := andThen_eq_next.1 ht
    exact ih (hr.after_execClk hu) ht

/-! ## A channel counting down (R106, R180) -/

/-- The state with `m` ticks to go on channel `c`. -/
def withCount (c : Chan) (m : Nat) (s : State) : State :=
  setChan c { s.chan c with count := ticksOf m } s

theorem withCount_self (c : Chan) (s : State) : withCount c (s.chan c).count.toNat s = s := by
  rw [withCount, ticksOf, BitVec.ofNat_toNat, BitVec.setWidth_eq]
  exact setChan_chan c s

/-- `Fire(TX)` writes the count, so the firing does not see how far the channel had counted (R106). -/
theorem txTickHandler_withCount (m : Nat) (s : State) :
    txTickHandler (withCount .tx m s) = txTickHandler s := by
  obtain ⟨cfg, rx, tx, mb, ⟨_, ⟨_, ro, _, _⟩⟩, _⟩ := s
  cases ro <;> rfl

theorem rxTickHandler_withCount (l : Level) (m : Nat) (s : State) :
    rxTickHandler l (withCount .rx m s) = rxTickHandler l s := by
  obtain ⟨cfg, rx, tx, mb, ⟨⟨_, ro, _, _⟩, _⟩, _⟩ := s
  cases ro <;> rfl

/-- Counting down from more than one tick. -/
theorem countDown_toNat (hc : (s.chan c).count.toNat = n + 1) :
    ((countDown c s).chan c).count.toNat = n := by
  rw [countDown, chan_setChan_same]
  bv_omega

theorem count_ne_one (hc : (s.chan c).count.toNat = n + 1 + (m + 1)) : (s.chan c).count ≠ 1 := by
  bv_omega

/-- A transmit channel with more than `n` ticks to go counts through `n` ticks, and nothing else happens on its
side. -/
theorem transmitTicks_counts (ha : s.tm.tx.armed = true) (hc : s.tm.tx.count.toNat = n + (m + 1)) :
    transmitTicks n s = .next (withCount .tx (m + 1) s) := by
  induction n generalizing s with
  | zero =>
    rw [Nat.zero_add] at hc
    rw [← hc]
    exact congrArg _ (withCount_self .tx s).symm
  | succ n ih =>
    have htick : transmitTick s = .next (countDown .tx s) :=
      clockChan_counts ha (count_ne_one (c := .tx) hc)
    have hc : (s.chan .tx).count.toNat = n + (m + 1) + 1 := hc.trans (by omega)
    rw [transmitTicks_succ, htick, andThen_next]
    exact ih ha (countDown_toNat hc)

/-- The transmit channel fires in as many ticks as its count. -/
theorem transmitTicks_fires (ha : s.tm.tx.armed = true) (hc : s.tm.tx.count.toNat = n + 1) :
    transmitTicks (n + 1) s = txTickHandler s := by
  rw [transmitTicks_add, transmitTicks_counts ha hc, andThen_next, transmitTicks_one,
    transmitTick, clockChan_tx_due (by exact ha) (by rfl), txTickHandler_withCount]

/-- An edge during a reception is not acted on (R120, R182). -/
theorem clockEdge_receiving (hp : s.rx.phase ≠ .idle) (l : Level) :
    clockEdge l s = .next (setRxPrev l s) := by
  have hoff : edgeEnable s = false :=
    Bool.eq_false_iff.2 fun hon => hp (edgeEnable_eq_true_iff.1 hon).2.2
  cases hf : fallingEdge l s with
  | false => exact clockEdge_no_edge hf
  | true => rw [clockEdge_edge hf, edgeHandler_disabled hoff, andThen_next]

/-- A receive channel with more than `n` ticks to go counts through `n` ticks of a reception, and nothing else happens
on its side but that the level is remembered. -/
theorem receiveTicks_counts (ha : s.tm.rx.armed = true) (hp : s.rx.phase ≠ .idle)
    (hc : s.tm.rx.count.toNat = n + (m + 1)) (line : Nat → Level) :
    ∃ prev, receiveTicks line n s = .next (withCount .rx (m + 1) (setRxPrev prev s)) := by
  induction n generalizing s line with
  | zero =>
    rw [Nat.zero_add] at hc
    rw [← hc]
    exact ⟨s.pin.rxPrev, congrArg _ (withCount_self .rx s).symm⟩
  | succ n ih =>
    have htick : receiveTick (line 0) s = .next (setRxPrev (line 0) (countDown .rx s)) := by
      rw [receiveTick, clockChan_counts (by exact ha) (count_ne_one (c := .rx) hc), andThen_next]
      exact clockEdge_receiving (s := countDown .rx s) hp _
    have hc : (s.chan .rx).count.toNat = n + (m + 1) + 1 := hc.trans (by omega)
    rw [receiveTicks_succ, htick, andThen_next]
    exact ih (s := setRxPrev (line 0) (countDown .rx s)) ha hp (countDown_toNat hc) _

/-- The receive channel fires in as many ticks as its count, and samples the line of the last of them. -/
theorem receiveTicks_fires (ha : s.tm.rx.armed = true) (hp : s.rx.phase ≠ .idle)
    (hc : s.tm.rx.count.toNat = n + 1) (line : Nat → Level) :
    ∃ prev, receiveTicks line (n + 1) s =
      andThen (rxTickHandler (line n) (setRxPrev prev s)) (clockEdge (line n)) := by
  obtain ⟨prev, hcounts⟩ := receiveTicks_counts ha hp hc line
  refine ⟨prev, ?_⟩
  rw [receiveTicks_add, hcounts, andThen_next, receiveTicks_one, receiveTick,
    clockChan_rx_due (by exact ha) (by rfl), rxTickHandler_withCount]
  rfl

/-- Settles O43: in a running block the count is at least 1 (I8), and the two sides do not meet. -/
theorem channelFiresAfterItsCount : Obligations.ChannelFiresAfterItsCount := by
  rintro s line n hr ha rfl
  refine ⟨fun k hk => ?_, ?_⟩
  · obtain ⟨m, hm⟩ := Nat.exists_eq_add_of_lt hk
    have hcount : s.tm.tx.count.toNat = k + (m + 1) := hm
    obtain ⟨w, ht⟩ := hr.ticks_transmitter (transmitTicks_counts ha hcount) line
    refine ⟨_, ht, hr.after_ticks ht, rfl, rfl, ha, ?_, rfl⟩
    have hleft : (ticksOf (m + 1)).toNat = s.tm.tx.count.toNat - k := by
      rw [ticksOf_toNat (by omega)]
      omega
    exact hleft
  · obtain ⟨hpos, -⟩ := hr.ok.txChannel.countArmed ha
    obtain ⟨m, hm⟩ := Nat.exists_eq_add_of_lt hpos
    obtain ⟨u, hu⟩ := hr.txTickHandler_completes ha
    have hfires : transmitTicks s.tm.tx.count.toNat s = .next u := by
      rw [← hu, hm]
      exact transmitTicks_fires ha (by omega)
    obtain ⟨w, ht⟩ := hr.ticks_transmitter hfires line
    exact ⟨_, u, ht, hu, rfl, rfl, rfl, rfl, rfl⟩

end Sys2Proof.Machine
end

section
/-! A transmitted frame in time: each of its cells is on the pin for `BITPERIOD` ticks (R148, R185). -/

namespace Sys2Proof.Machine

variable {s t u : State} {b : Byte} {queued : Option Byte} {k n : Nat} {g : Config}

theorem bitPeriod_eq_succ (g : Config) : ∃ m, g.bitPeriod = m + 1 := by
  obtain ⟨hlo, -⟩ := bitPeriod_bounds g
  exact Nat.exists_eq_add_of_le' (by omega)

/-- A running block sends `b` with nothing queued, and cell `k` has just come on the pin. -/
structure CellBegins (g : Config) (b : Byte) (k : Nat) (s : State) : Prop where
  sending : Sending b none k s
  cfg : s.cfg = g
  count : s.tm.tx.count = ticksOf g.bitPeriod

theorem CellBegins.armed (h : CellBegins g b k s) : s.tm.tx.armed = true := by
  simp [h.sending.running.ok.txArmed, h.sending.phase_ne_idle]

theorem CellBegins.count_toNat (h : CellBegins g b k s) : s.tm.tx.count.toNat = g.bitPeriod := by
  rw [h.count, ticksOf_toNat (bitPeriod_bounds g).2]

@[simp] theorem txDataBitEnd_tm (i : Fin 8) (s : State) : (txDataBitEnd i s).tm = s.tm := by
  unfold txDataBitEnd
  split <;> rfl

/-- A firing before the stop bit reloads the channel (R106, R142 to R144). -/
theorem Running.txtick_reloads (hr : Running s) (hp : s.tx.phase ≠ .sendingStop)
    (ht : exec .txtick s = .next t) : t.tm.tx.count = ticksOf s.cfg.bitPeriod := by
  obtain ⟨hidle, ht⟩ := hr.txTickHandler_body ht
  rw [hr.fire_tx_periodic hidle] at ht
  obtain ⟨-, rfl⟩ | ⟨i, -, rfl⟩ | ⟨hstop, -⟩ := txBody_cases ht
  · rfl
  · simp
  · exact absurd hstop hp

/-- The `PUTC` of a byte at rest begins cell 0 of its frame (R162). -/
theorem Running.putc_cellBegins (hr : Running s) (hp : s.tx.phase = .idle)
    (hu : exec (.putc b) s = .next u) : CellBegins s.cfg b 0 u := by
  obtain ⟨-, hput, -⟩ := putcStartsQueuesOrFails
  cases (hput s b hr hp).symm.trans hu
  exact ⟨⟨hr.after_exec hu, rfl, rfl, rfl⟩, rfl, rfl⟩

/-- The firing that ends a cell comes `BITPERIOD` ticks after its beginning (R185). -/
theorem CellBegins.transmitTicks_bitPeriod (h : CellBegins g b k s) :
    transmitTicks g.bitPeriod s = exec .txtick s := by
  obtain ⟨m, hm⟩ := bitPeriod_eq_succ g
  rw [hm]
  exact transmitTicks_fires h.armed (h.count_toNat.trans hm)

/-- Until then the cell is on the pin. -/
theorem CellBegins.during (h : CellBegins g b k s) (hn : n < g.bitPeriod) :
    ∃ t, transmitTicks n s = .next t ∧ t.pin.tx = frameCell b k ∧ t.tx.phase ≠ .idle := by
  obtain ⟨m, hm⟩ := Nat.exists_eq_add_of_lt hn
  exact ⟨_, transmitTicks_counts h.armed (h.count_toNat.trans hm), h.sending.pin,
    h.sending.phase_ne_idle⟩

theorem CellBegins.next (h : CellBegins g b k s) (hk : k < 9) :
    ∃ t, transmitTicks g.bitPeriod s = .next t ∧ CellBegins g b (k + 1) t := by
  obtain ⟨t, ht, hsending⟩ := h.sending.txtick hk
  have hstop : s.tx.phase ≠ .sendingStop := by
    intro hp
    have hcell := h.sending.cell
    rw [hp] at hcell
    cases hcell
    exact lt_irrefl 9 hk
  obtain ⟨hcfg, -⟩ := txTickHandler_setting ht
  refine ⟨t, h.transmitTicks_bitPeriod.trans ht, hsending, hcfg.trans h.cfg, ?_⟩
  rw [h.sending.running.txtick_reloads hstop ht, h.cfg]

/-- Cell `k` begins `k` bit periods after cell 0. -/
theorem CellBegins.cell (h : CellBegins g b 0 s) (hk : k ≤ 9) :
    ∃ t, transmitTicks (k * g.bitPeriod) s = .next t ∧ CellBegins g b k t := by
  induction k with
  | zero => exact ⟨s, by rw [Nat.zero_mul]; rfl, h⟩
  | succ k ih =>
    obtain ⟨u, hu, hcell⟩ := ih (by omega)
    obtain ⟨t, ht, hnext⟩ := hcell.next (by omega)
    exact ⟨t, by rw [Nat.succ_mul, transmitTicks_add, hu, andThen_next, ht], hnext⟩

/-- The frame ends ten bit periods after it began, and the driver is at rest (R146). -/
theorem CellBegins.frame_ends (h : CellBegins g b 0 s) :
    ∃ t, transmitTicks (10 * g.bitPeriod) s = .next t ∧ Running t ∧ t.tx.phase = .idle := by
  obtain ⟨u, hu, hcell⟩ := h.cell (le_refl 9)
  obtain ⟨t, ht, hrest⟩ := hcell.sending.txtick_last
  refine ⟨t, ?_, hrest⟩
  rw [Nat.succ_mul, transmitTicks_add, hu, andThen_next, hcell.transmitTicks_bitPeriod, ht]

/-- Settles O44: the driver goes from cell to cell, and the line does not reach it. -/
theorem timedTransmission : Obligations.TimedTransmission := by
  intro s u b line hr hp hu
  have hru := hr.after_exec hu
  have hbegins := hr.putc_cellBegins hp hu
  refine ⟨fun k n hk hlo hhi => ?_, ?_⟩
  · obtain ⟨i, rfl⟩ := Nat.exists_eq_add_of_le hlo
    obtain ⟨v, hv, hcell⟩ := hbegins.cell hk
    obtain ⟨t, ht, hpin, hphase⟩ := hcell.during (n := i) (by rw [Nat.succ_mul] at hhi; omega)
    obtain ⟨w, hw⟩ := hru.ticks_transmitter
      (by rw [transmitTicks_add, hv, andThen_next, ht]) line
    exact ⟨_, hw, hpin, hphase⟩
  · obtain ⟨t, ht, hrt, hidle⟩ := hbegins.frame_ends
    obtain ⟨w, hw⟩ := hru.ticks_transmitter ht line
    obtain ⟨hpin, -⟩ := hrt.ok.txIdle hidle
    have hstopped : t.tm.tx.armed = false := by simp [hrt.ok.txArmed, hidle]
    exact ⟨_, hw, hpin, hidle, hstopped⟩

end Sys2Proof.Machine
end

section
/-! A received frame in time: its samples are taken at the centres of its cells, and its byte is in the slot from the
tenth firing on (R123, R129, R185). -/

namespace Sys2Proof.Machine

variable {s t v : State} {line smp : Nat → Level} {j m n : Nat}

theorem halfBit_eq_succ (g : Config) : ∃ m, g.halfBit = m + 1 :=
  Nat.exists_eq_add_of_le' (halfBit_bounds g).1

/-! ## The firings of a reception in a running block -/

/-- A low start sample begins the sampling of the data bits (R122). -/
theorem Running.exec_rxtick_startBit (hr : Running s) (hp : s.rx.phase = .idle) (smp : Nat → Level) :
    exec (.rxtick false) (receptionBegun s) = .next (sampling smp 0 s) := by
  obtain ⟨hrun, -⟩ := hr.runOps_startBit hp smp
  have hedge : exec .edge s = .next (receptionBegun s) := hr.exec_edge_idle hp
  rwa [runOps_cons_of_next hedge, runOps_single] at hrun

theorem Running.sampling_running (hr : Running s) (hp : s.rx.phase = .idle) (smp : Nat → Level)
    (hj : j ≤ 8) : Running (sampling smp j s) := by
  obtain ⟨-, hr0⟩ := hr.runOps_startBit hp smp
  obtain ⟨-, hrj⟩ := runOps_sampling hr0 hj
  exact hrj

theorem dataPhase_ne_idle (j : Nat) : dataPhase j ≠ .idle := by
  unfold dataPhase
  split <;> simp

/-- The centre of data bit `j` is a bit period after the firing before it (R123, R124). -/
theorem Running.receiveTicks_sampling (hr : Running s) (hp : s.rx.phase = .idle) (hj : j < 8)
    (hsmp : line (s.cfg.bitPeriod - 1) = smp (j + 2)) :
    ∃ prev, receiveTicks line s.cfg.bitPeriod (sampling smp j s) =
      .next (sampling smp (j + 1) (setRxPrev prev s)) := by
  obtain ⟨i, hi⟩ := bitPeriod_eq_succ s.cfg
  rw [hi, Nat.add_sub_cancel] at hsmp
  have hcount : (ticksOf s.cfg.bitPeriod).toNat = i + 1 := by
    rw [ticksOf_toNat (bitPeriod_bounds _).2, hi]
  obtain ⟨prev, hfires⟩ := receiveTicks_fires (s := sampling smp j s) rfl (dataPhase_ne_idle j) hcount line
  have hrj := (hr.after_setRxPrev prev).sampling_running hp smp hj.le
  have hnext : rxTickHandler (smp (j + 2)) (setRxPrev prev (sampling smp j s)) = _ :=
    exec_rxtick_sampling hrj hj
  refine ⟨smp (j + 2), ?_⟩
  rw [hi, hfires, hsmp, hnext, andThen_next]
  exact clockEdge_receiving (s := sampling smp (j + 1) (setRxPrev prev s)) (dataPhase_ne_idle _) _

/-- A high stop sample puts the byte into the empty slot and leaves the receiver idle (R126, R127). -/
theorem Running.rxtick_stopBit (hr : Running s) (hp : s.rx.phase = .idle)
    (hempty : s.mb.receivedReady = false) (smp : Nat → Level) :
    ∃ t, rxTickHandler true (sampling smp 8 s) = .next t ∧ t.mb.receivedReady = true ∧
      t.mb.receivedByte = some (byteOfSamples smp) ∧ t.rx.phase = .idle ∧ t.err = s.err := by
  have hstop : rxTickHandler true (sampling smp 8 s) = _ :=
    (hr.sampling_running hp smp (le_refl 8)).exec_rxtick_stop rfl true
  rw [rxStopBody_high, sampling_byte, deposit_empty (by exact hempty)] at hstop
  exact ⟨_, hstop, rfl, rfl, rfl, rfl⟩

/-! ## A frame on the line -/

/-- In a running block with an idle receiver the line falls in tick 0, and is still low at the centre of the start
bit. -/
structure StartBit (line : Nat → Level) (s : State) : Prop where
  running : Running s
  idle : s.rx.phase = .idle
  wasHigh : s.pin.rxPrev = true
  falls : line 0 = false
  low : line s.cfg.halfBit = false

/-- The level of the line at firing `k` (R123). -/
def sampled (g : Config) (line : Nat → Level) (k : Nat) : Level :=
  line (g.halfBit + (k - 1) * g.bitPeriod)

/-- Tick 0 begins the reception (R120, R182). -/
theorem StartBit.begins (h : StartBit line s) :
    receiveTicks line 1 s = .next (setRxPrev false (receptionBegun s)) := by
  rw [receiveTicks_one, h.running.receiveTick_idle h.idle, h.falls]
  exact h.running.clockEdge_begins h.idle h.wasHigh

/-- Tick `HALFBIT` takes the start sample (R122, R123). -/
theorem StartBit.receiveTicks_startBit (h : StartBit line s) (smp : Nat → Level) :
    ∃ prev, receiveTicks line (1 + s.cfg.halfBit) s = .next (sampling smp 0 (setRxPrev prev s)) := by
  obtain ⟨i, hi⟩ := halfBit_eq_succ s.cfg
  have hcount : (ticksOf s.cfg.halfBit).toNat = i + 1 := by
    rw [ticksOf_toNat (halfBit_bounds _).2.2, hi]
  obtain ⟨prev, hfires⟩ := receiveTicks_fires (s := setRxPrev false (receptionBegun s)) rfl
    (by simp [receptionBegun]) hcount fun k => line (1 + k)
  have hlow : line (1 + i) = false := by rw [Nat.add_comm, ← hi, h.low]
  have hstart : rxTickHandler false (setRxPrev prev (setRxPrev false (receptionBegun s))) = _ :=
    (h.running.after_setRxPrev prev).exec_rxtick_startBit h.idle smp
  refine ⟨false, ?_⟩
  rw [receiveTicks_add, h.begins, andThen_next, hi, hfires, hlow, hstart, andThen_next]
  exact clockEdge_receiving (s := sampling smp 0 (setRxPrev prev s)) (dataPhase_ne_idle 0) _

/-- After firing `j + 1`, `j` data samples have been taken (R123, R124). -/
theorem StartBit.receiveTicks_data (h : StartBit line s) (hj : j ≤ 8) :
    ∃ prev, receiveTicks line (1 + s.cfg.halfBit + j * s.cfg.bitPeriod) s =
      .next (sampling (sampled s.cfg line) j (setRxPrev prev s)) := by
  induction j with
  | zero => simpa using h.receiveTicks_startBit (sampled s.cfg line)
  | succ j ih =>
    obtain ⟨prev, hrun⟩ := ih (by omega)
    have hcentre : line (1 + s.cfg.halfBit + j * s.cfg.bitPeriod + (s.cfg.bitPeriod - 1)) =
        sampled s.cfg line (j + 2) := by
      obtain ⟨hlo, -⟩ := bitPeriod_bounds s.cfg
      simp only [sampled, show j + 2 - 1 = j + 1 from rfl, Nat.succ_mul]
      congr 1
      omega
    obtain ⟨prev', hnext⟩ := (h.running.after_setRxPrev prev).receiveTicks_sampling h.idle
      (line := fun k => line (1 + s.cfg.halfBit + j * s.cfg.bitPeriod + k)) (by omega) hcentre
    refine ⟨prev', ?_⟩
    rw [Nat.succ_mul, ← Nat.add_assoc, receiveTicks_add, hrun, andThen_next]
    exact hnext

/-- While the receive channel counts, the mailbox is left alone. -/
theorem receiveTicks_slot_kept (hv : receiveTicks line m s = .next v) (hmb : v.mb = s.mb)
    (ha : v.tm.rx.armed = true) (hp : v.rx.phase ≠ .idle) (hm : m ≤ n)
    (hn : n < m + v.tm.rx.count.toNat) : ∃ t, receiveTicks line n s = .next t ∧ t.mb = s.mb := by
  obtain ⟨i, rfl⟩ := Nat.exists_eq_add_of_le hm
  obtain ⟨d, hd⟩ := Nat.exists_eq_add_of_lt (Nat.lt_of_add_lt_add_left hn)
  obtain ⟨prev, hcounts⟩ := receiveTicks_counts (n := i) ha hp hd fun k => line (m + k)
  refine ⟨withCount .rx (d + 1) (setRxPrev prev v), ?_, hmb⟩
  rw [receiveTicks_add, hv, andThen_next, hcounts]

/-- Up to the tenth firing the mailbox is left alone (R127). -/
theorem StartBit.slot_kept (h : StartBit line s) (hn : n ≤ s.cfg.halfBit + 9 * s.cfg.bitPeriod) :
    ∃ t, receiveTicks line n s = .next t ∧ t.mb = s.mb := by
  by_cases h0 : n = 0
  · exact ⟨s, by rw [h0]; rfl, rfl⟩
  have hhalf : (ticksOf s.cfg.halfBit).toNat = s.cfg.halfBit := ticksOf_toNat (halfBit_bounds _).2.2
  have hbit : (ticksOf s.cfg.bitPeriod).toNat = s.cfg.bitPeriod := ticksOf_toNat (bitPeriod_bounds _).2
  by_cases hstart : n ≤ s.cfg.halfBit
  · refine receiveTicks_slot_kept h.begins rfl rfl (by simp [receptionBegun]) (by omega) ?_
    simp only [setRxPrev_tm, receptionBegun, hhalf]
    omega
  · obtain ⟨i, rfl⟩ : ∃ i, n = 1 + s.cfg.halfBit + i := Nat.exists_eq_add_of_le (by omega)
    have hpos : 0 < s.cfg.bitPeriod := by have := bitPeriod_bounds s.cfg; omega
    have hj : i / s.cfg.bitPeriod < 9 := Nat.div_lt_of_lt_mul (by rw [Nat.mul_comm]; omega)
    obtain ⟨prev, hrun⟩ := h.receiveTicks_data (Nat.le_of_lt_succ hj)
    have hlo := Nat.div_mul_le_self i s.cfg.bitPeriod
    have hhi := Nat.lt_div_mul_add hpos (a := i)
    refine receiveTicks_slot_kept hrun rfl rfl (dataPhase_ne_idle _) (by omega) ?_
    simp only [sampling, setRxPrev_cfg, hbit]
    omega

/-- The tenth firing puts the byte of the samples into the empty slot (R126, R127). -/
theorem StartBit.receiveTicks_stopBit (h : StartBit line s) (hempty : s.mb.receivedReady = false)
    (hstop : line (s.cfg.halfBit + 9 * s.cfg.bitPeriod) = true) :
    ∃ t, receiveTicks line (s.cfg.halfBit + 9 * s.cfg.bitPeriod + 1) s = .next t ∧
      t.mb.receivedReady = true ∧ t.mb.receivedByte = some (byteOfSamples (sampled s.cfg line)) ∧
      t.rx.phase = .idle ∧ t.err = s.err := by
  obtain ⟨i, hi⟩ := bitPeriod_eq_succ s.cfg
  obtain ⟨prev, hrun⟩ := h.receiveTicks_data (le_refl 8)
  have hcount : (ticksOf s.cfg.bitPeriod).toNat = i + 1 := by
    rw [ticksOf_toNat (bitPeriod_bounds _).2, hi]
  obtain ⟨prev', hfires⟩ := receiveTicks_fires
    (s := sampling (sampled s.cfg line) 8 (setRxPrev prev s)) rfl (dataPhase_ne_idle 8) hcount
    fun k => line (1 + s.cfg.halfBit + 8 * s.cfg.bitPeriod + k)
  have hlast : 1 + s.cfg.halfBit + 8 * s.cfg.bitPeriod + i = s.cfg.halfBit + 9 * s.cfg.bitPeriod := by
    omega
  obtain ⟨t, ht, hfields⟩ := (h.running.after_setRxPrev prev').rxtick_stopBit h.idle hempty
    (sampled s.cfg line)
  have ht : rxTickHandler true
      (setRxPrev prev' (sampling (sampled s.cfg line) 8 (setRxPrev prev s))) = .next t := ht
  have hticks : s.cfg.halfBit + 9 * s.cfg.bitPeriod + 1 =
      1 + s.cfg.halfBit + 8 * s.cfg.bitPeriod + (i + 1) := by omega
  refine ⟨setRxPrev true t, ?_, hfields⟩
  rw [hticks, receiveTicks_add, hrun, andThen_next, hfires, hlast, hstop, ht, andThen_next]
  exact clockEdge_no_edge (by simp [fallingEdge])

/-- Settles O45: the receiver goes from centre to centre, and the driver does not reach it. -/
theorem timedReception : Obligations.TimedReception := by
  intro s line hr hp hprev hempty h0 hlow hstop
  have h : StartBit line s := ⟨hr, hp, hprev, h0, hlow⟩
  refine ⟨fun n hn => ?_, ?_⟩
  · obtain ⟨w, hw, hmb⟩ := h.slot_kept hn
    obtain ⟨u, ht⟩ := hr.ticks_receiver hw
    exact ⟨_, ht, by simp [withTransmitter, hmb, hempty]⟩
  · obtain ⟨w, hw, hfields⟩ := h.receiveTicks_stopBit hempty hstop
    obtain ⟨u, ht⟩ := hr.ticks_receiver hw
    exact ⟨_, ht, hfields⟩

end Sys2Proof.Machine
end

section
/-! The loopback harness: with the output pin wired to the input pin every byte comes back (R184, R185). -/

namespace Sys2Proof.Machine

variable {s t u : State} {b : Byte} {line : Nat → Level} {k m n : Nat}

/-! ## The line of the harness -/

/-- The level of the wire in tick `n` of the harness: what the ticks before it left on the output pin (R184). -/
def loopLine (s : State) (n : Nat) : Level :=
  match loopback n s with
  | .next t => t.pin.tx
  | .fault _ | .refused _ => Config.idleLevel

theorem loopLine_of_next (h : loopback n s = .next t) : loopLine s n = t.pin.tx := by
  simp [loopLine, h]

/-- After its first tick the harness goes on as from the state it left. -/
theorem loopLine_succ (h : loopbackTick s = .next t) (n : Nat) : loopLine s (n + 1) = loopLine t n := by
  simp [loopLine, loopback, h]

/-- The harness is a sequence of ticks, with its own wire as the line (R183, R184). -/
theorem loopback_eq_ticks (n : Nat) (s : State) : loopback n s = ticks (loopLine s) n s := by
  induction n generalizing s with
  | zero => rfl
  | succ n ih =>
    have hfirst : execClk (loopLine s 0) s = loopbackTick s := rfl
    rw [ticks_succ, hfirst, loopback]
    cases ht : loopbackTick s with
    | next t => simp only [andThen_next, ih, loopLine_succ ht]
    | fault f => cases f
    | refused e => rfl

/-! ## A high line -/

/-- While the line is high an idle receiver keeps its byte (R127, R182). -/
theorem Running.ticks_high (hr : Running s) (hp : s.rx.phase = .idle) (hline : ∀ k < n, line k = true)
    (ht : ticks line n s = .next t) : t.mb.receivedByte = s.mb.receivedByte := by
  induction n generalizing line s with
  | zero =>
    cases ht
    rfl
  | succ n ih =>
    obtain ⟨u, hu, ht⟩ := andThen_eq_next.1 ht
    have hstopped : s.tm.rx.armed = false := by simp [hr.ok.rxArmed, hp]
    obtain ⟨hbyte, -⟩ := execClk_rx_stopped_slot hstopped hu
    obtain ⟨hrx, -⟩ := execClk_rx_stopped_quiet hstopped (by simp [hline 0 n.succ_pos]) hu
    rw [← hbyte]
    exact ih (hr.after_execClk hu) (hrx ▸ hp) (fun k hk => hline (k + 1) (by omega)) ht

/-! ## The frame on the wire -/

/-- During cell `k` the wire carries cell `k` (R148, R185). -/
theorem Running.loopLine_cell (hr : Running s) (hp : s.tx.phase = .idle)
    (hu : exec (.putc b) s = .next u) (hk : k ≤ 9) (hlo : k * s.cfg.bitPeriod ≤ n)
    (hhi : n < (k + 1) * s.cfg.bitPeriod) : loopLine u n = frameCell b k := by
  obtain ⟨hcells, -⟩ := timedTransmission s u b (loopLine u) hr hp hu
  obtain ⟨t, ht, hpin, -⟩ := hcells k n hk hlo hhi
  rw [← loopback_eq_ticks] at ht
  rw [loopLine_of_next ht, hpin]

/-- The centre of cell `k` is in cell `k` (R123). -/
theorem Running.loopLine_centre (hr : Running s) (hp : s.tx.phase = .idle)
    (hu : exec (.putc b) s = .next u) (hk : k ≤ 9) :
    loopLine u (s.cfg.halfBit + k * s.cfg.bitPeriod) = frameCell b k := by
  obtain ⟨-, hhalf, -⟩ := halfBit_bounds s.cfg
  exact hr.loopLine_cell hp hu hk (by omega) (by rw [Nat.succ_mul]; omega)

/-- The byte of the samples depends on samples 2 to 9 alone (R92). -/
theorem byteOfSamples_congr {smp smp' : Nat → Level} (h : ∀ k ≤ 9, smp k = smp' k) :
    byteOfSamples smp = byteOfSamples smp' := by
  apply BitVec.eq_of_getLsbD_eq
  intro i hi
  rw [byteOfSamples_bit smp ⟨i, hi⟩, byteOfSamples_bit smp' ⟨i, hi⟩, h _ (by simp only; omega)]

/-- The centres of the cells on the wire sample the byte that was put (R81, R92). -/
theorem Running.byteOfSamples_loopLine (hr : Running s) (hp : s.tx.phase = .idle)
    (hu : exec (.putc b) s = .next u) : byteOfSamples (sampled s.cfg (loopLine u)) = b := by
  rw [← byteOfSamples_frame b]
  exact byteOfSamples_congr fun k hk => hr.loopLine_centre hp hu (by omega)

/-- The receiver takes the byte off the wire: it is in the empty slot from the tenth firing on and not before (R184). -/
theorem Running.loopLine_received (hr : Running s) (htx : s.tx.phase = .idle) (hrx : s.rx.phase = .idle)
    (hprev : s.pin.rxPrev = true) (hempty : s.mb.receivedReady = false)
    (hu : exec (.putc b) s = .next u) :
    (∀ n ≤ s.cfg.halfBit + 9 * s.cfg.bitPeriod,
      ∃ t, ticks (loopLine u) n u = .next t ∧ t.mb.receivedReady = false) ∧
    ∃ t, ticks (loopLine u) (s.cfg.halfBit + 9 * s.cfg.bitPeriod + 1) u = .next t ∧
      t.mb.receivedReady = true ∧ t.mb.receivedByte = some b ∧ t.rx.phase = .idle ∧ t.err = s.err := by
  obtain ⟨hcfg, -⟩ := execPutc_setting hu
  obtain ⟨hurx, huprev, -, -, huready, huerr⟩ := execPutc_receiveSide hu
  have hfalls : loopLine u 0 = false := by
    obtain ⟨hlo, -⟩ := bitPeriod_bounds s.cfg
    rw [hr.loopLine_cell (k := 0) htx hu (by omega) (by omega) (by omega), frameCell_start]
  have hlow : loopLine u s.cfg.halfBit = false := by
    simpa [frameCell_start] using hr.loopLine_centre (k := 0) htx hu (by omega)
  have hstop : loopLine u (s.cfg.halfBit + 9 * s.cfg.bitPeriod) = true := by
    rw [hr.loopLine_centre htx hu (le_refl 9), frameCell_stop]
  rw [← hcfg] at hlow hstop
  obtain ⟨hbefore, t, ht, hready, hbyte, hidle, herr⟩ := timedReception u (loopLine u)
    (hr.after_exec hu) (hurx ▸ hrx) (huprev.trans hprev) (huready.trans hempty) hfalls hlow hstop
  have hput : byteOfSamples (sampled u.cfg (loopLine u)) = b := by
    rw [hcfg, hr.byteOfSamples_loopLine htx hu]
  rw [← hcfg]
  exact ⟨hbefore, t, ht, hready, hbyte.trans (congrArg some hput), hidle, herr.trans huerr⟩

/-- Settles O46: the wire carries the frame of the byte, the receiver samples it at the centres of its cells, and from
then on the line is high. -/
theorem loopbackRoundTrip : Obligations.LoopbackRoundTrip := by
  intro s u b hr htx hrx hprev hempty hu
  obtain ⟨hbefore, t, ht, hready, hbyte, hidle, herr⟩ :=
    hr.loopLine_received htx hrx hprev hempty hu
  obtain ⟨-, v, hv, hpin, hvidle, -⟩ := timedTransmission s u b (loopLine u) hr htx hu
  have hafter : v.mb.receivedByte = some b := by
    obtain ⟨-, hhalf, -⟩ := halfBit_bounds s.cfg
    obtain ⟨d, hd⟩ : ∃ d, 10 * s.cfg.bitPeriod = s.cfg.halfBit + 9 * s.cfg.bitPeriod + 1 + d :=
      Nat.exists_eq_add_of_le (by omega)
    have hhigh : ∀ k < d, loopLine u (s.cfg.halfBit + 9 * s.cfg.bitPeriod + 1 + k) = true := by
      intro k hk
      rw [hr.loopLine_cell (k := 9) htx hu (by omega) (by omega) (by omega), frameCell_stop]
    rw [hd, ticks_add, ht, andThen_next] at hv
    rw [((hr.after_exec hu).after_ticks ht).ticks_high hidle hhigh hv, hbyte]
  have hticks : 1 + s.cfg.halfBit + 9 * s.cfg.bitPeriod = s.cfg.halfBit + 9 * s.cfg.bitPeriod + 1 := by
    omega
  simp only [loopback_eq_ticks, hticks]
  exact ⟨hbefore, ⟨t, ht, hready, hbyte, herr⟩, v, hv, hvidle, hpin, hafter⟩

end Sys2Proof.Machine
end

section
/-! Which operations are refused, and why, in every state of the machine (R206): before `INIT` those of the driver
interface and the firings, after it a second `INIT` and a firing out of turn, and at all times the sub-operations. -/

namespace Sys2Proof.Machine

variable {s : State} {i : Instr} {l : Level} {b : Byte} {e : Refusal}

/-- An operation of a trace stands at its top level (R105). -/
theorem Inv.topLevel (h : Inv s) : s.nesting = .topLevel :=
  h.elim PoweredOn.topLevel Running.topLevel

/-- After `INIT` the block is running (R37). -/
theorem Inv.running (h : Inv s) (hi : s.ctl.initialised = true) : Running s :=
  h.resolve_left fun hp => by simp [hp.initialised] at hi

theorem execInit_eq_refused_iff :
    execInit s = .refused e ↔ e = .reInit ∧ s.ctl.initialised = true := by
  cases hi : s.ctl.initialised with
  | false => simp [execInit_uninitialised hi]
  | true => simp [execInit_initialised hi, eq_comm]

theorem execGetc_eq_refused_iff :
    execGetc s = .refused e ↔ e = .notInitialised ∧ s.ctl.initialised = false := by
  cases hi : s.ctl.initialised with
  | false => simp [execGetc_before_init hi, eq_comm]
  | true => cases hr : s.mb.receivedReady <;> simp [execGetc, hi, hr]

theorem execPutc_eq_refused_iff :
    execPutc b s = .refused e ↔ e = .notInitialised ∧ s.ctl.initialised = false := by
  refine ⟨fun h => (execPutc_refused h).symm, ?_⟩
  rintro ⟨rfl, hi⟩
  exact execPutc_before_init hi b

/-- A receive firing is out of turn exactly in an idle receiver, whose channel is disarmed (R37 I5, R106). -/
theorem Inv.rxTickHandler_eq_refused_iff (h : Inv s) : rxTickHandler l s = .refused e ↔
    (e = .notInitialised ∧ s.ctl.initialised = false) ∨
    (e = .spuriousTick ∧ s.ctl.initialised = true ∧ s.rx.phase = .idle) := by
  cases hi : s.ctl.initialised with
  | false => simp [rxTickHandler_before_init hi, eq_comm]
  | true =>
    have hr := h.running hi
    by_cases hp : s.rx.phase = .idle
    · simp [rxTickHandler_disarmed hi, hr.ok.rxArmed, hp, eq_comm]
    · obtain ⟨t, ht⟩ := hr.rxTickHandler_completes (by simp [hr.ok.rxArmed, hp]) l
      simp [ht, hp]

/-- A transmit firing is out of turn exactly in an idle driver, whose channel is disarmed (R37 I6, R106). -/
theorem Inv.txTickHandler_eq_refused_iff (h : Inv s) : txTickHandler s = .refused e ↔
    (e = .notInitialised ∧ s.ctl.initialised = false) ∨
    (e = .spuriousTick ∧ s.ctl.initialised = true ∧ s.tx.phase = .idle) := by
  cases hi : s.ctl.initialised with
  | false => simp [txTickHandler_before_init hi, eq_comm]
  | true =>
    have hr := h.running hi
    by_cases hp : s.tx.phase = .idle
    · simp [txTickHandler_disarmed hi, hr.ok.txArmed, hp, eq_comm]
    · obtain ⟨t, ht⟩ := hr.txTickHandler_completes (by simp [hr.ok.txArmed, hp])
      simp [ht, hp]

theorem edgeHandler_ne_refused (e : Refusal) (s : State) : edgeHandler s ≠ .refused e := by
  obtain ⟨t, ht⟩ := edgeHandler_completes s
  simp [ht]

/-- A tick performs a firing only on its armed channel (R37, R180). -/
theorem Inv.execClk_ne_refused (h : Inv s) (l : Level) (e : Refusal) : execClk l s ≠ .refused e := by
  cases hi : s.ctl.initialised with
  | false => simp [execClk_before_init hi]
  | true =>
    obtain ⟨t, ht⟩ := (h.running hi).execClk_completes l
    simp [ht]

/-- A sub-operation is refused at the top level of a trace for this reason alone (R105). -/
theorem Inv.exec_internal_eq_refused_iff (h : Inv s) (hi : i.context = .internal) :
    exec i s = .refused e ↔ e = .internalOnly := by
  simp [subOperationsRefusedAtTopLevel s i h.topLevel hi, eq_comm]

/-- Settles O51: the four sub-operations by their context, each other operation by its own equivalence. -/
theorem refusalsExactly : Obligations.RefusalsExactly := by
  intro s i e h
  cases i with
  | init => simpa [exec, Instr.context] using execInit_eq_refused_iff
  | getc => simpa [exec, Instr.context] using execGetc_eq_refused_iff
  | putc b => simpa [exec, Instr.context] using execPutc_eq_refused_iff
  | arm | disarm | rearm1 | txstart =>
    simpa [Instr.context] using h.exec_internal_eq_refused_iff rfl
  | edge => simpa [exec, execEdge, Instr.context] using edgeHandler_ne_refused e s
  | rxtick l => simpa [exec, execRxtick, Instr.context] using h.rxTickHandler_eq_refused_iff
  | txtick => simpa [exec, execTxtick, Instr.context] using h.txTickHandler_eq_refused_iff
  | clk l => simpa [exec, Instr.context] using h.execClk_ne_refused l e

end Sys2Proof.Machine
end

section
/-! A byte waiting in the receive slot under `DropNew`: a receive firing that finds the slot full leaves the mailbox
(R73, R127, R203). -/

namespace Sys2Proof.Machine

variable {s t : State} {c : Chan} {l : Level} {b : Byte}

/-- A byte waits in the receive slot, and the block drops what would overwrite it. -/
def HoldsByte (s : State) : Prop := s.cfg.overrun = .dropNew ∧ s.mb.receivedReady = true

theorem HoldsByte.deposit_mb (h : HoldsByte s) (b : Byte) : (deposit b s).mb = s.mb := by
  obtain ⟨hdrop, hready⟩ := h
  rw [deposit_dropNew hready hdrop]

/-- Whatever the stop sample and the framing policy, the mailbox stays (R126). -/
theorem HoldsByte.rxStopByte_mb (h : HoldsByte s) (l : Level) : (rxStopByte l s).mb = s.mb := by
  cases l with
  | true => exact h.deposit_mb _
  | false =>
    have hf : HoldsByte (setFraming (signal .framingError s)) := h
    cases hp : s.cfg.framing with
    | deliver => simp [rxStopByte, hp, hf.deposit_mb]
    | discard => simp [rxStopByte, hp]

/-- A receive firing reaches the mailbox only in `StopExpected`, and there only by a deposit (R121). -/
theorem HoldsByte.rxTickHandler_keeps_mb (h : HoldsByte s) (ht : rxTickHandler l s = .next t) :
    t.mb = s.mb := by
  by_cases hp : s.rx.phase = .stopExpected
  · obtain ⟨-, -, hbody⟩ := rxTickHandler_cases ht
    have hstop : t = rxStopBody l (fire .rx s) := by simpa [rxBody, hp] using hbody.symm
    rw [hstop, rxStopBody, disarm_fire]
    have hd : HoldsByte (disarm .rx s) := h
    exact hd.rxStopByte_mb l
  · exact rxTickHandler_mb hp ht

/-- A channel step of `CLK` leaves the mailbox when its handler, which does not see the count, does (R180). -/
theorem clockChan_mb {k : State → Result} (hcount : k (countDown c s) = k s)
    (hk : ∀ t, k s = .next t → t.mb = s.mb) (ht : clockChan c k s = .next t) : t.mb = s.mb := by
  obtain ⟨-, rfl⟩ | ⟨-, -, rfl⟩ | ⟨-, -, ht⟩ := clockChan_cases ht
  · rfl
  · simp [countDown]
  · exact hk t (hcount ▸ ht)

/-- The transmit firing of a tick leaves the receive slot, the receive firing and the edge the mailbox (R180). -/
theorem HoldsByte.execClk_slot (h : HoldsByte s) (ht : execClk l s = .next t) :
    t.mb.receivedByte = s.mb.receivedByte ∧ t.mb.receivedReady = s.mb.receivedReady := by
  cases hi : s.ctl.initialised with
  | false =>
    cases (execClk_before_init hi).symm.trans ht
    exact ⟨rfl, rfl⟩
  | true =>
    obtain ⟨u, v, hu, hv, ht⟩ := execClk_cases hi ht
    obtain ⟨hcfg, -⟩ := transmitTick_setting hu
    obtain ⟨hbyte, hready⟩ := (clockChan_tx_receiveSide hu).slot_eq
    have hholds : HoldsByte u := by rwa [HoldsByte, hcfg, hready]
    have hmb := clockChan_mb (rxTickHandler_countDown l u) (fun _ => hholds.rxTickHandler_keeps_mb) hv
    rw [clockEdge_mb ht, hmb]
    exact ⟨hbyte, hready⟩

/-- Settles O58: beside `INIT` and `GETC` only a receive firing reaches the receive slot, by itself or in a tick. -/
theorem waitingByteKeptUnderDropNew : Obligations.WaitingByteKeptUnderDropNew := by
  intro i s t ht hinit hgetc hdrop hready
  have h : HoldsByte s := ⟨hdrop, hready⟩
  have hslot : t.mb.receivedByte = s.mb.receivedByte ∧ t.mb.receivedReady = s.mb.receivedReady := by
    obtain (hi | hi | ⟨l, rfl | rfl⟩) | hkept := exec_receiveSlot ht
    · exact absurd hi hinit
    · exact absurd hi hgetc
    · rw [h.rxTickHandler_keeps_mb ht]
      exact ⟨rfl, rfl⟩
    · exact h.execClk_slot ht
    · exact hkept
  obtain ⟨hbyte, hkept⟩ := hslot
  exact ⟨hkept.trans hready, hbyte⟩

end Sys2Proof.Machine
end

section
/-! When the timer is stopped, and what starts it again (R35, R107, R219). -/

namespace Sys2Proof.Machine

variable {s t : State} {c : Chan} {i : Instr}

theorem powerIdle_eq_true_iff : powerIdle s = true ↔ ∀ c, (s.chan c).armed = false := by
  refine ⟨fun h c => ?_, fun h => ?_⟩
  · obtain ⟨hrx, htx⟩ : s.tm.rx.armed = false ∧ s.tm.tx.armed = false := by simpa [powerIdle] using h
    cases c
    · exact hrx
    · exact htx
  · have hrx : s.tm.rx.armed = false := h .rx
    have htx : s.tm.tx.armed = false := h .tx
    simp [powerIdle, hrx, htx]

/-- A sequencer's channel is armed exactly out of its `Idle` (R37 I5, I6, R107). -/
theorem Running.powerIdle_iff (hr : Running s) :
    powerIdle s = true ↔ s.rx.phase = .idle ∧ s.tx.phase = .idle := by
  simp [powerIdle, hr.ok.rxArmed, hr.ok.txArmed]

/-- At the top level of a trace a stopped channel is started by an edge, a `PUTC` or a tick at a falling edge
(R102, R105). -/
theorem Starts.wakes (h : Starts s c i) (hi : i.context ≠ .internal) :
    i = .edge ∨ (∃ b, i = .putc b) ∨ (i = .clk false ∧ s.pin.rxPrev = true) := by
  obtain ⟨n, rfl | rfl⟩ | ⟨-, rfl | hputc⟩ | ⟨-, hedge | hclk⟩ := h
  · exact absurd rfl hi
  · exact absurd rfl hi
  · exact absurd rfl hi
  · exact .inr (.inl hputc)
  · exact .inl hedge
  · exact .inr (.inr hclk)

/-- Settles O59: a block that wakes has a channel that was stopped and is armed, so the operation started it. -/
theorem powerIdleAndWake : Obligations.PowerIdleAndWake := by
  refine ⟨fun s hr => hr.powerIdle_iff, fun i s t hr ht hidle hawake => ?_⟩
  by_contra hno
  have hstopped : powerIdle t = true := powerIdle_eq_true_iff.2 fun c =>
    (exec_stopped (powerIdle_eq_true_iff.1 hidle c) ht).resolve_left fun hstarts =>
      hno (hstarts.wakes (exec_topLevel_context hr.topLevel ht))
  cases hstopped.symm.trans hawake

end Sys2Proof.Machine
end

section
/-! The block before its `INIT` (R166, R240). -/

namespace Sys2Proof.Machine

/-- Settles O50: of the operations that complete before `INIT`, `INIT` alone changes the state. -/
theorem nothingHappensBeforeInit : Obligations.NothingHappensBeforeInit :=
  fun _ _ _ hp hi ht => (hp.exec_cases ht).resolve_left fun hinit => hi hinit.1

end Sys2Proof.Machine
end
